-- ==== Sys2Proof/Word.lean ====
section
/-! DEFINITION. The two word types of the device: a byte of data memory and the value of a 32-bit register. -/

namespace Sys2Proof

/-- A byte, 0..255, never signed (R9). -/
abbrev Byte := BitVec 8

/-- The value of a 32-bit register (R7, R10). -/
abbrev Word := BitVec 32

end Sys2Proof
end

