-- ==== Sys2Proof/Syntax.lean ====
section
/-! DEFINITION. The commands of the device: one constructor per row of spec/opcode_table.json. No command carries an
operand in its word; every operand is a register latched at issue (R83). -/

namespace Sys2Proof

/-- The ten commands of the opcode map (R3, R81). -/
inductive Instr where
  | bwtFwd    -- BWT_FWD, R136
  | bwtInv    -- BWT_INV, R137
  | mtfEnc    -- MTF_ENC, R156
  | mtfDec    -- MTF_DEC, R157
  | rleEnc    -- RLE_ENC, R172
  | rleDec    -- RLE_DEC, R173
  | blockEnc  -- BLOCK_ENC, R188
  | blockDec  -- BLOCK_DEC, R189
  | transform -- TRANSFORM, R203
  | inverse   -- INVERSE, R208
  deriving DecidableEq, Repr

end Sys2Proof
end

