-- ==== Sys2Proof/WellFormed.lean ====
section
/-! DEFINITION. Well-formedness. A command has no operand (R83), so every `Instr` is well-formed; what can be ill-formed is
a command WORD, by the three checks of R82 below. -/

namespace Sys2Proof

/-- The field RSVD, bits 31:8, is 0 (R80). -/
def rsvdIsZero (w : Word) : Bool := w.extractLsb' 8 24 == 0

/-- The field OPCODE, bits 7:0, is not the reserved 0x00 (R82). -/
def opcodeNotZero (w : Word) : Bool := w.extractLsb' 0 8 != 0

/-- The field OPCODE, bits 7:0, is below the reserved 0x0B..0xFF (R82). -/
def opcodeBelowReserved (w : Word) : Bool := decide ((w.extractLsb' 0 8).toNat < 0x0B)

/-- A command word that is not reserved (R82). -/
def wordWellFormed (w : Word) : Bool := rsvdIsZero w && opcodeNotZero w && opcodeBelowReserved w

/-- Every command is well-formed: none has an operand a check could refuse (R83). -/
def Instr.wellFormed : Instr → Bool
  | .bwtFwd => true
  | .bwtInv => true
  | .mtfEnc => true
  | .mtfDec => true
  | .rleEnc => true
  | .rleDec => true
  | .blockEnc => true
  | .blockDec => true
  | .transform => true
  | .inverse => true

end Sys2Proof
end

