-- ==== Sys2Proof/Decode.lean ====
section
/-! DEFINITION. The decoder of command words, total on every 32-bit word, and after it the encoder. -/

namespace Sys2Proof

/-- Why a command word is reserved (R82). Raised by `decodeWord`; the device answers it with BAD_CMD at issue, so it stops
nothing. -/
inductive DecodeError where
  /-- RSVD, bits 31:8, is not 0 (R80). -/
  | reservedBits
  /-- OPCODE is 0x00 or 0x0B..0xFF (R82). -/
  | reservedOpcode
  deriving DecidableEq, Repr

/-- The OPCODE field, bits 7:0 (R80). -/
def opcodeField (w : Word) : BitVec 8 := w.extractLsb' 0 8

/-- The RSVD field, bits 31:8 (R80). -/
def rsvdField (w : Word) : BitVec 24 := w.extractLsb' 8 24

/-- The opcode map (R81). -/
def decodeOpcode (op : BitVec 8) : Option Instr :=
  match op.toNat with
  | 0x01 => some .bwtFwd
  | 0x02 => some .bwtInv
  | 0x03 => some .mtfEnc
  | 0x04 => some .mtfDec
  | 0x05 => some .rleEnc
  | 0x06 => some .rleDec
  | 0x07 => some .blockEnc
  | 0x08 => some .blockDec
  | 0x09 => some .transform
  | 0x0A => some .inverse
  | _ => none

/-- The command a command word stands for, or why it is reserved (R80–R82). -/
def decodeWord (w : Word) : Except DecodeError Instr :=
  if rsvdField w = 0 then
    match decodeOpcode (opcodeField w) with
    | some i => .ok i
    | none => .error .reservedOpcode
  else .error .reservedBits

/-- The decoder on a word numbered as spec/opcode_table.json numbers it. A command word moves through the register port as
one 32-bit number, so no byte order arises (R66; log 17). Bits at or above nbits are taken as 0; a number that does not fit
in the one 32-bit format is no command word (R80). -/
def decodeTableWord (nbits w : Nat) : Option Instr :=
  if w % 2 ^ nbits < 2 ^ 32 then (decodeWord (BitVec.ofNat 32 (w % 2 ^ nbits))).toOption else none

/-- The opcode of a command (R81). -/
def Instr.opcode : Instr → BitVec 8
  | .bwtFwd => 0x01
  | .bwtInv => 0x02
  | .mtfEnc => 0x03
  | .mtfDec => 0x04
  | .rleEnc => 0x05
  | .rleDec => 0x06
  | .blockEnc => 0x07
  | .blockDec => 0x08
  | .transform => 0x09
  | .inverse => 0x0A

/-- The command word of a command: RSVD = 0 above its opcode (R80). -/
def encode (i : Instr) : Word := (0 : BitVec 24) ++ i.opcode

/-! The command words of R136, R137, R156, R157, R172, R173, R188, R189, R203 and R208, bit by bit. -/

theorem decodeWord_BWT_FWD : decodeWord 0b00000000000000000000000000000001 = .ok .bwtFwd := by decide
theorem decodeWord_BWT_INV : decodeWord 0b00000000000000000000000000000010 = .ok .bwtInv := by decide
theorem decodeWord_MTF_ENC : decodeWord 0b00000000000000000000000000000011 = .ok .mtfEnc := by decide
theorem decodeWord_MTF_DEC : decodeWord 0b00000000000000000000000000000100 = .ok .mtfDec := by decide
theorem decodeWord_RLE_ENC : decodeWord 0b00000000000000000000000000000101 = .ok .rleEnc := by decide
theorem decodeWord_RLE_DEC : decodeWord 0b00000000000000000000000000000110 = .ok .rleDec := by decide
theorem decodeWord_BLOCK_ENC : decodeWord 0b00000000000000000000000000000111 = .ok .blockEnc := by decide
theorem decodeWord_BLOCK_DEC : decodeWord 0b00000000000000000000000000001000 = .ok .blockDec := by decide
theorem decodeWord_TRANSFORM : decodeWord 0b00000000000000000000000000001001 = .ok .transform := by decide
theorem decodeWord_INVERSE : decodeWord 0b00000000000000000000000000001010 = .ok .inverse := by decide

end Sys2Proof
end

