-- ==== Sys2Proof/Config.lean ====
section
/-! DEFINITION. What an implementation fixes (R7, R18) and the free values. The constants of this file that the spec leaves
open have no body: nothing in Lean can evaluate them, so a claim holds whatever they are (log 1, 6, 7, 11). -/

namespace Sys2Proof

/-- The OPEN parameters of R7. Three fields admit exactly the values R7 allows: `1 ≤ MAX_BLOCK ≤ 0xFFFFFFFF`,
`1 ≤ MEM_SIZE ≤ 2^32`, SA_ACCEL a bit. CSR_BASE is a multiple of 256, as R7 asks, below 2^32. DESIGN CHOICE: R7 gives a
platform address no width, and the model gives it 32 bits (log 23). -/
structure Params where
  maxBlockLessOne : Fin 0xFFFFFFFF
  memSizeLessOne : Fin 0x100000000
  saAccel : Bool
  csrPage : BitVec 24
  deriving DecidableEq, Repr, Inhabited

/-- MAX_BLOCK: the largest block, in bytes, the BWT unit can hold (R7, R26). -/
def Params.maxBlock (P : Params) : Nat := P.maxBlockLessOne.val + 1

/-- MEM_SIZE: the bytes of data memory the engine can address (R7, R60). -/
def Params.memSize (P : Params) : Nat := P.memSizeLessOne.val + 1

/-- CSR_BASE: the platform address of the 256-byte register block (R7, R61). DESIGN CHOICE: 32 bits wide (log 23). -/
def Params.csrBase (P : Params) : Word := P.csrPage ++ (0 : BitVec 8)

/-- The parameters of the device at hand. OPEN: no body (R7; log 1). -/
opaque Config.params : Params

/-- A free byte: the n-th draw of a destination byte the spec leaves unspecified (U2; log 6). -/
opaque Config.freeByte : Nat → Byte

/-- A free word: what a read of a result register returns while BUSY = 1 (U4; log 7). -/
opaque Config.freeWord : Nat → Word

/-- Free moves of the front list, for the unit storage an aborted command leaves (log 11). -/
opaque Config.freeMoves : Nat → List Byte

/-- A free RLE run, none for EMPTY, for the unit storage an aborted command leaves (log 11). -/
opaque Config.freeRun : Nat → Option (Byte × Fin 255)

/-- Free bytes of the BWT block buffer an aborted command leaves (log 11). -/
opaque Config.freeBlock : Nat → List Byte

/-- Free 32-bit table entries of the BWT unit (SA and rank) an aborted command leaves (log 11). -/
opaque Config.freeTable : Nat → Bool → List Word

/-- Free entries of the 256-entry tables counts and C an aborted command leaves (log 11). -/
opaque Config.freeEntry : Nat → Bool → Nat → Word

/-- Free sequencer cursor, frame count and output length an aborted command leaves (log 11). -/
opaque Config.freeCount : Nat → Fin 3 → Word

/-- The value of ID, the ASCII bytes of BTE1 (R24). -/
def Config.idValue : Word := 0x42544531

/-- The value of VERSION (R24). -/
def Config.versionValue : Word := 0x00000001

end Sys2Proof
end

