-- ==== Sys2Proof/Machine/State.lean ====
section
/-! DEFINITION. The state of the machine as plain data, the reasons a step can stop, and the state after reset. -/

namespace Sys2Proof.Machine

/-- Why a step stops, or what the model records. -/
inductive Fault where
  /-- A register access that is not 32 bits wide at a 4-byte-aligned offset in 0x00..0xFC (R42, R67). RECORDED by the
  register port in `State.faults`; no step stops with it, because the spec gives the access its effect: none. Safe. -/
  | hostBusFault (offset width : Nat)
  /-- The host wrote the source window, or read or wrote the destination window, of the command in flight (R72). Raised by
  the host's memory accesses; the spec gives the race no value. Safe. -/
  | hostWindowRace (addr : Nat)
  /-- The host accessed data memory at or above MEM_SIZE, where no byte exists (R60). Raised by the host's memory accesses.
  Safe (log 10). -/
  | hostMemAbsent (addr : Nat)
  /-- A completion whose source or destination window does not lie in data memory (R60). Raised by the completion step; no
  command that passed the issue checks of R102 raises it. Safe (log 10). -/
  | engineMemAbsent
  deriving DecidableEq, Repr

/-- Why a step has no meaning. -/
inductive Refusal where
  /-- Raised by `exec` for an instruction that has no meaning yet; none is left. Safe. -/
  | notModelled (mnemonic : String)
  deriving DecidableEq, Repr

/-- The error codes of R220 that an error completion can report. -/
inductive ErrCode where
  | truncatedContainer | corruptPrimaryIndex | unsupportedBlockSize | badMaxRun | corruptPayload
  | blockTooLarge | outputOverflow | badRegion | badCmd | aborted
  deriving DecidableEq, Repr

/-- The names of the register block (R23). -/
inductive Reg where
  | id | version | cap | maxBlock | ctrl | blockSize | maxRun | cmd | status
  | srcAddr | srcLen | dstAddr | dstCap | arg0 | dbg | errInfo
  | resLen | resPrimary | resConsumed | resBlocks | resXformBlocks | resValMismatches
  | lastMode | lastRawLen | lastPayloadLen | lastHeader0
  deriving DecidableEq, Repr

/-- The registers that hold a value (R23). ID, VERSION, CAP and MAX_BLOCK are constants and CMD reads 0, so they have no
field. -/
structure Regs where
  ctrl : Word
  blockSize : Word
  maxRun : Word
  status : Word
  srcAddr : Word
  srcLen : Word
  dstAddr : Word
  dstCap : Word
  arg0 : Word
  dbg : Word
  errInfo : Word
  resLen : Word
  resPrimary : Word
  resConsumed : Word
  resBlocks : Word
  resXformBlocks : Word
  resValMismatches : Word
  lastMode : Word
  lastRawLen : Word
  lastPayloadLen : Word
  lastHeader0 : Word
  deriving DecidableEq, Repr

/-- The configuration latched at issue (R44, R103). -/
structure Latched where
  srcAddr : Word
  srcLen : Word
  dstAddr : Word
  dstCap : Word
  arg0 : Word
  blockSize : Word
  maxRun : Word
  selfValidate : Bool
  wholeFile : Bool
  dbg : Word
  deriving DecidableEq, Repr

/-- The command in flight (R44); the opcode is held decoded (log 12). -/
structure InFlight where
  command : Instr
  cfg : Latched
  deriving DecidableEq, Repr

/-- The RLE unit's run state (R46). -/
inductive RunState where
  | empty
  | run (v : Byte) (r : Nat)
  deriving DecidableEq, Repr

/-- The BWT unit's storage (R47): block buffer, SA, counts, C, rank and the walk index. -/
structure BwtStore where
  block : List Byte
  sa : List Word
  counts : List Word
  cum : List Word
  rank : List Word
  idx : Word
  deriving DecidableEq, Repr

/-- The sequencer's storage (R48); lengths, indices and counters are below 2^32 (R8). -/
structure Sequencer where
  cursor : Word
  frames : Word
  written : Word
  deriving DecidableEq, Repr

/-- The working storage of the units (R45–R48), which no program can observe (log 11). -/
structure Units where
  front : List Byte
  run : RunState
  bwt : BwtStore
  seq : Sequencer
  deriving DecidableEq, Repr

/-- A statement of a host program (R93). `write` and `read` give the offset and width of the access, so that an access the
register port does not support can be written too (R67). -/
inductive HostStmt where
  /-- `wr NAME, v`: a register write. -/
  | write (offset width : Nat) (v : Word)
  /-- `rd NAME`: a register read. -/
  | read (offset width : Nat)
  /-- A register write at a platform address, as a bus sees it (R20, R61; log 20, 23). -/
  | busWrite (addr : Word) (width : Nat) (v : Word)
  /-- A register read at a platform address (R20, R61; log 20, 23). -/
  | busRead (addr : Word) (width : Nat)
  /-- `rd NAME == v`: a register read and the program's expectation. -/
  | expect (r : Reg) (v : Word)
  /-- `poll NAME, m, v`: read NAME until (value AND m) = v. -/
  | poll (r : Reg) (mask v : Word)
  /-- `mem a, bytes`: data-memory writes, one per byte. -/
  | store (addr : Nat) (bytes : List Byte)
  /-- `chk a, bytes`: data-memory reads and the program's expectation. -/
  | check (addr : Nat) (bytes : List Byte)
  deriving DecidableEq, Repr

/-- Which step comes next (R17): the host's, the engine's, or a change of the RST input. -/
inductive Move where
  | host | engine | rstAssert | rstRelease
  deriving DecidableEq, Repr

/-- The state of the machine (R18), the unit storage (R45–R48), the RST level, and what lies outside the device: the host's
pending program and its view, and which agent moves next. `draws`, `host`, `schedule`, `regData`, `memData` and
`checkFails` are the model's own (log 4, 6, 14). -/
structure State where
  regs : Regs
  mem : List Host.Cell
  inFlight : Option InFlight
  units : Units
  rst : Bool
  faults : List Fault
  host : List HostStmt
  schedule : List Move
  draws : Nat
  regData : Word
  memData : Byte
  checkFails : Nat
  deriving DecidableEq, Repr

/-- The registers after reset, the "reset" column of R23 (R50). -/
def Regs.reset : Regs where
  ctrl := 0x00000001
  blockSize := 0
  maxRun := 0x000000FF
  status := 0
  srcAddr := 0
  srcLen := 0
  dstAddr := 0
  dstCap := 0
  arg0 := 0
  dbg := 0
  errInfo := 0
  resLen := 0
  resPrimary := 0
  resConsumed := 0
  resBlocks := 0
  resXformBlocks := 0
  resValMismatches := 0
  lastMode := 0
  lastRawLen := 0
  lastPayloadLen := 0
  lastHeader0 := 0

/-- The byte values in order, `[0, 1, ..., 255]` (R45). -/
def byteValues : List Byte := (List.range 256).map (BitVec.ofNat 8)

/-- The unit storage after reset. DESIGN CHOICE: R50 leaves it unspecified (log 11). -/
def Units.reset : Units where
  front := byteValues
  run := .empty
  bwt := { block := [], sa := [], counts := List.replicate 256 0, cum := List.replicate 256 0, rank := [], idx := 0 }
  seq := { cursor := 0, frames := 0, written := 0 }

/-- The machine right after reset (R50): registers at their reset values, no command in flight, nothing written to data
memory, the host idle. -/
def State.reset : State where
  regs := Regs.reset
  mem := []
  inFlight := none
  units := Units.reset
  rst := false
  faults := []
  host := []
  schedule := []
  draws := 0
  regData := 0
  memData := 0
  checkFails := 0

end Sys2Proof.Machine
end

