-- ==== Sys2Proof/Machine/Flags.lean ====
section
/-! DEFINITION. Every flag of the device: the fields of CTRL (R27), DBG (R41) and STATUS (R35), the error codes (R220), and
the ways the rules change STATUS. The device has no arithmetic flags (R43). -/

namespace Sys2Proof.Machine

/-- `w` with bit `k` set to `b`. -/
def setBit (w : Word) (k : Nat) (b : Bool) : Word :=
  if b then w ||| BitVec.twoPow 32 k else w &&& ~~~BitVec.twoPow 32 k

/-! CTRL (R27) -/

/-- CTRL.SELF_VALIDATE, bit 0 (R28). -/
def ctrlSelfValidate (w : Word) : Bool := w.getLsbD 0

/-- CTRL.WHOLE_FILE, bit 1 (R29). -/
def ctrlWholeFile (w : Word) : Bool := w.getLsbD 1

/-- CTRL.IRQ_EN, bit 2 (R30). -/
def ctrlIrqEn (w : Word) : Bool := w.getLsbD 2

/-- The ABORT action of a written value, bit 8 (R31). -/
def ctrlAbort (w : Word) : Bool := w.getLsbD 8

/-- The SOFT_RESET action of a written value, bit 9 (R31). -/
def ctrlSoftReset (w : Word) : Bool := w.getLsbD 9

/-- What a CTRL write stores: bits 2:0 (R27). -/
def ctrlStored (w : Word) : Word := w &&& 0x00000007#32

/-! DBG (R41) -/

/-- DBG.INJ_MTF, bit 0. -/
def dbgInjMtf (w : Word) : Bool := w.getLsbD 0

/-- DBG.INJ_RLE, bit 1. -/
def dbgInjRle (w : Word) : Bool := w.getLsbD 1

/-- What a DBG write stores: bits 1:0 (R41). -/
def dbgStored (w : Word) : Word := w &&& 0x00000003#32

/-! STATUS (R35) -/

/-- STATUS.BUSY, bit 0. -/
def statusBusy (w : Word) : Bool := w.getLsbD 0

/-- STATUS.DONE, bit 1. -/
def statusDone (w : Word) : Bool := w.getLsbD 1

/-- STATUS.ERR, bit 2. -/
def statusErr (w : Word) : Bool := w.getLsbD 2

/-- STATUS.VAL_MISMATCH, bit 3. -/
def statusValMismatch (w : Word) : Bool := w.getLsbD 3

/-- STATUS.CMD_OVR, bit 4. -/
def statusCmdOvr (w : Word) : Bool := w.getLsbD 4

/-- STATUS.ERR_CODE, bits 15:8. -/
def statusErrCode (w : Word) : BitVec 8 := w.extractLsb' 8 8

/-- `w` with ERR_CODE, bits 15:8, set to `c`. -/
def withErrCode (w : Word) (c : BitVec 8) : Word := (w &&& 0xFFFF00FF#32) ||| (c.zeroExtend 32 <<< 8)

/-- The code of NONE (R220). -/
def errNone : BitVec 8 := 0x00

/-- The values of STATUS.ERR_CODE (R220). -/
def ErrCode.value : ErrCode → BitVec 8
  | .truncatedContainer => 0x01
  | .corruptPrimaryIndex => 0x02
  | .unsupportedBlockSize => 0x03
  | .badMaxRun => 0x04
  | .corruptPayload => 0x05
  | .blockTooLarge => 0x06
  | .outputOverflow => 0x07
  | .badRegion => 0x08
  | .badCmd => 0x09
  | .aborted => 0x0A

/-- What issue does to STATUS before the checks: DONE, ERR, ERR_CODE and VAL_MISMATCH go to 0, CMD_OVR stays (R101). -/
def statusIssue (w : Word) : Word :=
  withErrCode (setBit (setBit (setBit w 1 false) 2 false) 3 false) errNone

/-- What a successful completion does to STATUS: VAL_MISMATCH as given, BUSY 0, DONE 1 (R106). -/
def statusSuccess (mismatch : Bool) (w : Word) : Word :=
  setBit (setBit (setBit w 3 mismatch) 0 false) 1 true

/-- What an error completion does to STATUS: ERR_CODE, VAL_MISMATCH 0, ERR 1, DONE 1, BUSY 0 (R108, R112). -/
def statusError (c : ErrCode) (w : Word) : Word :=
  setBit (setBit (setBit (setBit (withErrCode w c.value) 3 false) 2 true) 1 true) 0 false

/-- What an issue-time error completion does to STATUS: ERR_CODE, ERR 1, DONE 1 (R113). -/
def statusIssueError (c : ErrCode) (w : Word) : Word :=
  setBit (setBit (withErrCode w c.value) 2 true) 1 true

/-- What a write of `v` to STATUS does: each of bits 1..4 that is 1 in `v` clears that bit, and clearing ERR sets ERR_CODE
to 0 (R36). -/
def statusWrite (v w : Word) : Word :=
  let w1 := w &&& ~~~(v &&& 0x0000001E#32)
  if v.getLsbD 2 then withErrCode w1 errNone else w1

/-- IRQ = CTRL.IRQ_EN AND STATUS.DONE (R30, R230). -/
def Regs.irq (r : Regs) : Bool := ctrlIrqEn r.ctrl && statusDone r.status

/-- The interrupt output (R20, R230). -/
def State.irq (s : State) : Bool := s.regs.irq

end Sys2Proof.Machine
end

