-- ==== Sys2Proof/Machine/Operands.lean ====
section
/-! DEFINITION. Every operand form of the commands: the latched configuration (R83, R103), the source and destination windows
(R62–R64) and the issue checks over them (R102). -/

namespace Sys2Proof.Machine

/-- The configuration a command latches, the current values of its operand registers (R103). -/
def Regs.latch (r : Regs) : Latched where
  srcAddr := r.srcAddr
  srcLen := r.srcLen
  dstAddr := r.dstAddr
  dstCap := r.dstCap
  arg0 := r.arg0
  blockSize := r.blockSize
  maxRun := r.maxRun
  selfValidate := ctrlSelfValidate r.ctrl
  wholeFile := ctrlWholeFile r.ctrl
  dbg := r.dbg

/-- A window of `len` bytes at `addr` is valid: empty, or inside data memory; the sum is unbounded (R62, R63). -/
def windowValid (P : Params) (addr len : Word) : Bool :=
  len == 0 || decide (addr.toNat + len.toNat ≤ P.memSize)

/-- The source window is valid (R62). -/
def Latched.srcValid (P : Params) (c : Latched) : Bool := windowValid P c.srcAddr c.srcLen

/-- The destination window is valid (R63). -/
def Latched.dstValid (P : Params) (c : Latched) : Bool := windowValid P c.dstAddr c.dstCap

/-- The two windows overlap (R64). -/
def Latched.overlap (c : Latched) : Bool :=
  c.srcLen != 0 && c.dstCap != 0
    && decide (c.srcAddr.toNat < c.dstAddr.toNat + c.dstCap.toNat)
    && decide (c.dstAddr.toNat < c.srcAddr.toNat + c.srcLen.toNat)

/-- Address `a` lies in the source window (R62). -/
def Latched.inSource (c : Latched) (a : Nat) : Bool :=
  decide (c.srcAddr.toNat ≤ a) && decide (a < c.srcAddr.toNat + c.srcLen.toNat)

/-- Address `a` lies in the destination window (R63). -/
def Latched.inDest (c : Latched) (a : Nat) : Bool :=
  decide (c.dstAddr.toNat ≤ a) && decide (a < c.dstAddr.toNat + c.dstCap.toNat)

/-- The commands whose MAX_RUN is checked at issue (R102 check 3). -/
def checksMaxRun : Instr → Bool
  | .bwtFwd => false
  | .bwtInv => false
  | .mtfEnc => false
  | .mtfDec => false
  | .rleEnc => true
  | .rleDec => false
  | .blockEnc => true
  | .blockDec => false
  | .transform => true
  | .inverse => false

/-- The commands whose BLOCK_SIZE is checked at issue: TRANSFORM in fixed mode (R102 check 4). -/
def checksBlockSize (wholeFile : Bool) : Instr → Bool
  | .bwtFwd => false
  | .bwtInv => false
  | .mtfEnc => false
  | .mtfDec => false
  | .rleEnc => false
  | .rleDec => false
  | .blockEnc => false
  | .blockDec => false
  | .transform => !wholeFile
  | .inverse => false

/-- The commands whose SRC_LEN is checked against MAX_BLOCK at issue (R102 check 5). -/
def checksSrcLen (wholeFile : Bool) : Instr → Bool
  | .bwtFwd => true
  | .bwtInv => true
  | .mtfEnc => false
  | .mtfDec => false
  | .rleEnc => false
  | .rleDec => false
  | .blockEnc => true
  | .blockDec => false
  | .transform => wholeFile
  | .inverse => false

/-- The issue checks of R102 after BAD_CMD, in the rule's order: the first that fails gives its error code and ERR_INFO
(R221). -/
def issueCheck (P : Params) (i : Instr) (c : Latched) : Option (ErrCode × Word) :=
  if !c.srcValid P || !c.dstValid P || c.overlap then some (.badRegion, 0)
  else if checksMaxRun i && !(decide (1 ≤ c.maxRun.toNat) && decide (c.maxRun.toNat ≤ 255)) then
    some (.badMaxRun, c.maxRun)
  else if checksBlockSize c.wholeFile i && (c.blockSize == 0 || decide (P.maxBlock < c.blockSize.toNat)) then
    some (.unsupportedBlockSize, c.blockSize)
  else if checksSrcLen c.wholeFile i && decide (P.maxBlock < c.srcLen.toNat) then
    some (.blockTooLarge, c.srcLen)
  else none

end Sys2Proof.Machine
end

