-- ==== Sys2Proof/Machine/Ops.lean ====
section
/-! DEFINITION. The operations every command shares: data memory as a canonical list of cells, big-endian words, draws,
the completion of a command, and its error completion, which is this device's one exception entry (R108, R227). -/

namespace Sys2Proof.Machine

/-! Data memory (R60) -/

/-- Data memory: the bytes that differ from what an unlisted address reads as, by rising address. -/
abbrev Memory := List Host.Cell

/-- What an address that is not listed reads as. DESIGN CHOICE: the spec gives data memory no power-on contents (log 2). -/
def unlistedByte (_a : Nat) : Byte := 0

/-- The canonical form: addresses strictly rising, no entry equal to what an unlisted address reads as. -/
abbrev Memory.wf (m : Memory) : Prop :=
  m.Pairwise (fun x y => x.1 < y.1) ∧ ∀ x ∈ m, x.2 ≠ unlistedByte x.1

/-- The byte at address `a` (R60). -/
def readByte : Memory → Nat → Byte
  | [], a => unlistedByte a
  | (k, b) :: m, a => if k = a then b else readByte m a

/-- Memory with the byte at address `a` set to `b`, in canonical form (R60). -/
def writeByte : Memory → Nat → Byte → Memory
  | [], a, b => if b = unlistedByte a then [] else [(a, b)]
  | (k, c) :: m, a, b =>
    if a < k then (if b = unlistedByte a then (k, c) :: m else (a, b) :: (k, c) :: m)
    else if a = k then (if b = unlistedByte a then m else (a, b) :: m)
    else (k, c) :: writeByte m a b

/-- MemRead(a, n): the `n` bytes at `a`, `a+1`, … (R12). -/
def readBytes (m : Memory) (a n : Nat) : List Byte := (List.range n).map (fun k => readByte m (a + k))

/-- MemWrite(a, len v, v): byte `v[k]` goes to `a + k` (R12). -/
def writeBytes : Memory → Nat → List Byte → Memory
  | m, _, [] => m
  | m, a, b :: v => writeBytes (writeByte m a b) (a + 1) v

/-- Memory with `n` bytes from `a` on made draws, each a free byte of its own, the first the `d`-th (U2; log 6). -/
def fillFree : Memory → Nat → Nat → Nat → Memory
  | m, _, 0, _ => m
  | m, a, n + 1, d => fillFree (writeByte m a (Config.freeByte d)) (a + 1) n (d + 1)

/-- The state with `n` bytes of data memory from `a` on unspecified (U2). -/
def State.unspecify (s : State) (a n : Nat) : State :=
  { s with mem := fillFree s.mem a n s.draws, draws := s.draws + n }

/-! Big-endian words (R11, R65) -/

/-- be32: the 4 bytes of a word, most significant first (R11). -/
def be32 (x : Word) : List Byte := [x.extractLsb' 24 8, x.extractLsb' 16 8, x.extractLsb' 8 8, x.extractLsb' 0 8]

/-- rd_be32: the number the 4 bytes at offset `a` of `X` stand for (R11). -/
def rdBe32 (X : List Byte) (a : Nat) : Nat :=
  (X.getD a 0).toNat * 2 ^ 24 + (X.getD (a + 1) 0).toNat * 2 ^ 16 + (X.getD (a + 2) 0).toNat * 2 ^ 8
    + (X.getD (a + 3) 0).toNat

/-! Results of a command (R105) -/

/-- The report of a frame (R105 `last`). -/
structure FrameInfo where
  xform : Bool
  rawLen : Nat
  payloadLen : Nat
  header0 : Nat
  deriving DecidableEq, Repr

/-- The result record of a command that succeeds (R105). A field a command's rule does not name is 0 or none. -/
structure Result where
  out : List Byte := []
  primary : Nat := 0
  consumed : Nat := 0
  blocks : Nat := 0
  xblocks : Nat := 0
  valmis : Nat := 0
  last : Option FrameInfo := none
  deriving DecidableEq, Repr

/-- The defined partial result of an error (R105). -/
structure Partial where
  out : List Byte := []
  consumed : Nat := 0
  blocks : Nat := 0
  xblocks : Nat := 0
  last : Option FrameInfo := none
  deriving DecidableEq, Repr

/-- The value of a command's pure function: Ok(res) or Err(code, info, part) (R105). -/
inductive CommandResult where
  | ok (r : Result)
  | err (code : ErrCode) (info : Word) (part : Partial)
  deriving DecidableEq, Repr

/-- A count as a 32-bit register holds it (R8; log 18). -/
def u32 (n : Nat) : Word := BitVec.ofNat 32 n

/-- LAST_* for the last frame handled; 0 where there was none (R107). LAST_MODE has VALID in bit 1 and XFORM in bit 0
(R39). -/
def Regs.writeLast (r : Regs) (last : Option FrameInfo) : Regs :=
  match last with
  | none => { r with lastMode := 0, lastRawLen := 0, lastPayloadLen := 0, lastHeader0 := 0 }
  | some f => { r with lastMode := if f.xform then 3 else 2, lastRawLen := u32 f.rawLen,
                       lastPayloadLen := u32 f.payloadLen, lastHeader0 := u32 f.header0 }

/-- write_results: every result register at a successful completion (R107). -/
def Regs.writeResults (r : Regs) (res : Result) : Regs :=
  { r.writeLast res.last with
    resLen := u32 res.out.length, resPrimary := u32 res.primary, resConsumed := u32 res.consumed,
    resBlocks := u32 res.blocks, resXformBlocks := u32 res.xblocks, resValMismatches := u32 res.valmis }

/-- Every result register at an error completion at the completion step (R108). -/
def Regs.writePartial (r : Regs) (p : Partial) : Regs :=
  { r.writeLast p.last with
    resLen := u32 p.out.length, resPrimary := 0, resConsumed := u32 p.consumed,
    resBlocks := u32 p.blocks, resXformBlocks := u32 p.xblocks, resValMismatches := 0 }

/-- Every result register 0: an issue-time error or an abort (R112, R113). -/
def Regs.clearResults (r : Regs) : Regs := r.writePartial {}

/-! Completion (R106–R108) -/

/-- A successful completion with result `res` (R106, R107, R114). -/
def successCompletion (c : Latched) (res : Result) (s : State) : State :=
  { s with
    mem := writeBytes s.mem c.dstAddr.toNat res.out
    regs := { s.regs.writeResults res with status := statusSuccess (decide (0 < res.valmis)) s.regs.status }
    inFlight := none }

/-- TAKING AN EXCEPTION: the error completion at the completion step (R108, R227). The cause goes to STATUS.ERR_CODE, the
detail to ERR_INFO, the defined partial output to the destination window, whose other bytes become draws; no control
transfer and no mode change (R227), and no return operation (R228: the host acknowledges by a STATUS write). -/
def errorCompletion (c : Latched) (code : ErrCode) (info : Word) (part : Partial) (s : State) : State :=
  let s1 := { s with mem := writeBytes s.mem c.dstAddr.toNat part.out }
  let s2 := s1.unspecify (c.dstAddr.toNat + part.out.length) (c.dstCap.toNat - part.out.length)
  { s2 with
    regs := { s2.regs.writePartial part with errInfo := info, status := statusError code s2.regs.status }
    inFlight := none }

/-- The overflow information: the length that was needed (R106, R221, C7). -/
def overflowInfo (n : Nat) : Word := u32 (min n 0xFFFFFFFF)

/-- What a completion does with the value of the command's pure function (R106). -/
def finishCommand (c : Latched) (v : CommandResult) (s : State) : State :=
  match v with
  | .ok res =>
    if c.dstCap.toNat < res.out.length then errorCompletion c .outputOverflow (overflowInfo res.out.length) {} s
    else successCompletion c res s
  | .err code info part => errorCompletion c code info part s

/-- The source bytes of a command: MemRead(SRC_ADDR, SRC_LEN) at completion (R69). -/
def State.source (s : State) (c : Latched) : List Byte := readBytes s.mem c.srcAddr.toNat c.srcLen.toNat

/-- The completion step of the command in flight (R106): `run` is its pure function, `after` what its passes leave in the
unit storage (log 11). -/
def completeCommand (P : Params) (run : Latched → List Byte → CommandResult)
    (after : Latched → List Byte → Units → Units) (c : Latched) (s : State) :
    Host.Outcome State Fault Refusal :=
  if c.srcValid P && c.dstValid P then
    .next { finishCommand c (run c (s.source c)) s with units := after c (s.source c) s.units }
  else .fault .engineMemAbsent

/-! Issue (R100–R104, R113) -/

/-- What issue sets before the checks (R101). -/
def Regs.issueStart (r : Regs) : Regs := { r with status := statusIssue r.status, errInfo := 0 }

/-- An issue-time error completion: ERR_CODE, ERR_INFO, ERR and DONE set, every result register 0, no data memory touched,
nothing in flight (R113). -/
def issueError (code : ErrCode) (info : Word) (s : State) : State :=
  { s with regs := { s.regs.clearResults with errInfo := info, status := statusIssueError code s.regs.status } }

/-- The issue step of a command that decodes: R101, the checks of R102, then R103 and R104, or R113. -/
def issueCommand (P : Params) (i : Instr) (s : State) : State :=
  let s1 := { s with regs := s.regs.issueStart }
  match issueCheck P i s1.regs.latch with
  | some (code, info) => issueError code info s1
  | none => { s1 with regs := { s1.regs with status := setBit s1.regs.status 0 true }
                      inFlight := some { command := i, cfg := s1.regs.latch } }

/-- The issue of a reserved command word: BAD_CMD with the word as ERR_INFO (R82, R102 check 1). -/
def badCommand (w : Word) (s : State) : State := issueError .badCmd w { s with regs := s.regs.issueStart }

/-- A CMD write while a command is in flight: CMD_OVR is set and nothing else changes (R111). -/
def lostCommand (s : State) : State :=
  { s with regs := { s.regs with status := setBit s.regs.status 4 true } }

/-- The step of command `i`: its issue when nothing is in flight (R100), its completion when it is the command in flight
(R106), and a lost CMD write when another command is (R111; log 3). -/
def runCommand (P : Params) (i : Instr) (run : Latched → List Byte → CommandResult)
    (after : Latched → List Byte → Units → Units) (s : State) : Host.Outcome State Fault Refusal :=
  match s.inFlight with
  | none => .next (issueCommand P i s)
  | some f => if f.command = i then completeCommand P run after f.cfg s else .next (lostCommand s)

end Sys2Proof.Machine
end

