-- ==== Sys2Proof/Machine/Mtf.lean ====
section
/-! DEFINITION. The MTF unit (42_mtf.md): the front-list update, the encoder and decoder passes, and the meanings of MTF_ENC
and MTF_DEC. -/

namespace Sys2Proof.Machine

/-- The move-to-front update of `F` at position `idx` (R151, R155). -/
def mtfMove (F : List Byte) (idx : Nat) : List Byte := F.getD idx 0 :: (F.take idx ++ F.drop (idx + 1))

/-- The encoder from front list `F`: the indices and the front list the pass leaves (R152, R155). -/
def mtfEncFrom : List Byte → List Byte → List Byte × List Byte
  | F, [] => ([], F)
  | F, b :: X =>
    let idx := F.idxOf b
    let r := mtfEncFrom (mtfMove F idx) X
    (BitVec.ofNat 8 idx :: r.1, r.2)

/-- The decoder from front list `F`: the bytes and the front list the pass leaves (R153, R155). -/
def mtfDecFrom : List Byte → List Byte → List Byte × List Byte
  | F, [] => ([], F)
  | F, y :: Y =>
    let r := mtfDecFrom (mtfMove F y.toNat) Y
    (F.getD y.toNat 0 :: r.1, r.2)

/-- mtf_enc(X): every pass starts from [0, 1, …, 255] (R150, R152). -/
def mtfEnc (X : List Byte) : List Byte := (mtfEncFrom byteValues X).1

/-- mtf_dec(Y): every pass starts from [0, 1, …, 255] (R150, R153). -/
def mtfDec (Y : List Byte) : List Byte := (mtfDecFrom byteValues Y).1

/-- The front list an encoder pass over `X` leaves (R45, R150, R152). -/
def Units.afterMtfEnc (X : List Byte) (u : Units) : Units := { u with front := (mtfEncFrom byteValues X).2 }

/-- The front list a decoder pass over `Y` leaves (R45, R150, R153). -/
def Units.afterMtfDec (Y : List Byte) (u : Units) : Units := { u with front := (mtfDecFrom byteValues Y).2 }

/-- exec_MTF_ENC (R156). -/
def runMtfEnc (_c : Latched) (src : List Byte) : CommandResult :=
  .ok { out := mtfEnc src, consumed := src.length }

/-- The unit storage after MTF_ENC (R45). -/
def afterMtfEnc (_c : Latched) (src : List Byte) (u : Units) : Units := u.afterMtfEnc src

/-- MTF_ENC on a device with parameters `P` (R156). -/
def execMtfEncWith (P : Params) (s : State) : Host.Outcome State Fault Refusal :=
  runCommand P .mtfEnc runMtfEnc afterMtfEnc s

/-- MTF_ENC (R156). -/
def execMtfEnc (s : State) : Host.Outcome State Fault Refusal := execMtfEncWith Config.params s

/-- exec_MTF_DEC (R157). -/
def runMtfDec (_c : Latched) (src : List Byte) : CommandResult :=
  .ok { out := mtfDec src, consumed := src.length }

/-- The unit storage after MTF_DEC (R45). -/
def afterMtfDec (_c : Latched) (src : List Byte) (u : Units) : Units := u.afterMtfDec src

/-- MTF_DEC on a device with parameters `P` (R157). -/
def execMtfDecWith (P : Params) (s : State) : Host.Outcome State Fault Refusal :=
  runCommand P .mtfDec runMtfDec afterMtfDec s

/-- MTF_DEC (R157). -/
def execMtfDec (s : State) : Host.Outcome State Fault Refusal := execMtfDecWith Config.params s

end Sys2Proof.Machine
end

