-- ==== Sys2Proof/Machine/Control.lean ====
section
/-! DEFINITION. What ends a command without its completion: the abort action (R112) and reset, by RST or SOFT_RESET
(R250–R252). -/

namespace Sys2Proof.Machine

/-- The unit storage an aborted command leaves: free values, within the limits of R45–R47 (the front list is one that
moves from [0, 1, …, 255] reach; tables hold at most MAX_BLOCK entries). The `n`-th draw (log 11). -/
def freeUnits (P : Params) (n : Nat) : Units where
  front := (mtfDecFrom byteValues (Config.freeMoves n)).2
  run := match Config.freeRun n with
    | none => .empty
    | some (v, r) => .run v (r.val + 1)
  bwt := { block := (Config.freeBlock n).take P.maxBlock
           sa := (Config.freeTable n false).take P.maxBlock
           counts := (List.range 256).map (Config.freeEntry n false)
           cum := (List.range 256).map (Config.freeEntry n true)
           rank := (Config.freeTable n true).take P.maxBlock
           idx := Config.freeWord n }
  seq := { cursor := Config.freeCount n 0, frames := Config.freeCount n 1, written := Config.freeCount n 2 }

/-- The abort action: nothing when no command is in flight; else the command ends ABORTED, every result register is 0,
and every byte of its destination window is a draw (R112). -/
def abort (P : Params) (s : State) : State :=
  match s.inFlight with
  | none => s
  | some f =>
    let s1 := s.unspecify f.cfg.dstAddr.toNat f.cfg.dstCap.toNat
    { s1 with
      regs := { s1.regs.clearResults with errInfo := 0, status := statusError .aborted s1.regs.status }
      inFlight := none
      units := freeUnits P s1.draws
      draws := s1.draws + 1 }

/-- The reset state of R50, by either reset. A command in flight is removed without a completion, and every byte of its
destination window becomes a draw; no other data memory changes (R251). -/
def resetDevice (s : State) : State :=
  let s1 := match s.inFlight with
    | none => s
    | some f => s.unspecify f.cfg.dstAddr.toNat f.cfg.dstCap.toNat
  { s1 with regs := Regs.reset, inFlight := none, units := Units.reset }

/-- RST asserted: the reset state, held until RST is released (R250). -/
def rstAssert (s : State) : State := { resetDevice s with rst := true }

/-- RST released: the device is in the reset state in that step too (R250). Nothing happens where RST is not asserted. -/
def rstRelease (s : State) : State := if s.rst then { resetDevice s with rst := false } else s

/-- A CTRL write: a soft reset if bit 9 is 1 and nothing else; otherwise bits 2:0 are stored and then, if bit 8 is 1, the
abort action is performed (R27, R252). -/
def ctrlWrite (P : Params) (v : Word) (s : State) : State :=
  if ctrlSoftReset v then resetDevice s
  else
    let s1 := { s with regs := { s.regs with ctrl := ctrlStored v } }
    if ctrlAbort v then abort P s1 else s1

end Sys2Proof.Machine
end

