-- ==== Sys2Proof/Machine/Bwt.lean ====
section
/-! DEFINITION. The BWT unit (41_bwt.md): the rotation order, the forward transform, the LF-mapping inverse, and the meanings
of BWT_FWD and BWT_INV. -/

namespace Sys2Proof.Machine

/-- X <lex Y on byte strings of equal length, bytes compared unsigned (R13). -/
def lexLt : List Byte → List Byte → Bool
  | [], _ => false
  | _ :: _, [] => false
  | x :: X, y :: Y => decide (x.toNat < y.toNat) || (x == y && lexLt X Y)

/-- rot(B, i) = [B[(i + k) mod n] for k = 0 .. n-1] (R130). -/
def rot (B : List Byte) (i : Nat) : List Byte :=
  (List.range B.length).map (fun k => B.getD ((i + k) % B.length) 0)

/-- The rotation order: i ≺ j, ties broken by ascending start index (R130). -/
def rotLt (B : List Byte) (i j : Nat) : Bool :=
  lexLt (rot B i) (rot B j) || (rot B i == rot B j && decide (i < j))

/-- SA: the indices 0..n-1 in rotation order (R132). The same whatever SA_ACCEL is (R131). -/
def rotationOrder (B : List Byte) : List Nat :=
  (List.range B.length).insertionSort (fun i j => (!rotLt B j i) = true)

/-- bwt_fwd(B) = (L, p) (R132). -/
def bwtFwd (B : List Byte) : List Byte × Nat :=
  if B.length = 0 then ([], 0)
  else ((rotationOrder B).map (fun i => B.getD ((i + B.length - 1) % B.length) 0), (rotationOrder B).idxOf 0)

/-- counts[c], the occurrences of each of the 256 byte values in L (R134). -/
def countsTable (L : List Byte) : List Nat :=
  (List.range 256).map (fun c => L.countP (fun b => b.toNat == c))

/-- The sums of the entries before each entry, starting at `acc`. -/
def sumsBefore : Nat → List Nat → List Nat
  | _, [] => []
  | acc, x :: xs => acc :: sumsBefore (acc + x) xs

/-- C[c] = the number of bytes of L below c (R134). -/
def cumTable (L : List Byte) : List Nat := sumsBefore 0 (countsTable L)

/-- rank[i], the 1-based count of L[i] among L[0..i] (R134). -/
def rankTable (L : List Byte) : List Nat :=
  (List.range L.length).map (fun i => (L.take (i + 1)).count (L.getD i 0))

/-- LF(i) = C[L[i]] + rank[i] - 1 (R134, R135). -/
def lfStep (L : List Byte) (cum rank : List Nat) (i : Nat) : Nat :=
  cum.getD (L.getD i 0).toNat 0 + rank.getD i 0 - 1

/-- The walk of R134, `k` steps from `idx`, writing the result from its end: the bytes and the last idx. -/
def lfWalk (L : List Byte) (cum rank : List Nat) : Nat → Nat → List Byte → List Byte × Nat
  | 0, idx, acc => (acc, idx)
  | k + 1, idx, acc => lfWalk L cum rank k (lfStep L cum rank idx) (L.getD idx 0 :: acc)

/-- bwt_inv(L, p) (R134); none is the fail CORRUPT_PRIMARY_INDEX. -/
def bwtInv (L : List Byte) (p : Nat) : Option (List Byte) :=
  if L.length = 0 then some []
  else if p < L.length then some (lfWalk L (cumTable L) (rankTable L) L.length p []).1
  else none

/-- What the forward transform leaves in the BWT unit: the block in the buffer and SA; the inverse's tables stay (R47, R132).
DESIGN CHOICE: the rules do not say what the storage holds after a pass (log 11). -/
def BwtStore.afterFwd (B : List Byte) (st : BwtStore) : BwtStore :=
  { st with block := B, sa := (rotationOrder B).map u32 }

/-- What the inverse leaves in the BWT unit: its tables and idx, and SA stays (R47, R134). DESIGN CHOICE: R47 and R134 do not
say whether the block buffer holds the last column L or the recovered block after an inverse pass; the model keeps L. For an
empty L or a bad index the pass builds nothing and all of the storage stays (log 11). -/
def BwtStore.afterInv (L : List Byte) (p : Nat) (st : BwtStore) : BwtStore :=
  if L.length = 0 then st
  else if p < L.length then
    { st with
      block := L
      counts := (countsTable L).map u32
      cum := (cumTable L).map u32
      rank := (rankTable L).map u32
      idx := u32 (lfWalk L (cumTable L) (rankTable L) L.length p []).2 }
  else st

/-- exec_BWT_FWD (R136). -/
def runBwtFwd (_c : Latched) (src : List Byte) : CommandResult :=
  .ok { out := (bwtFwd src).1, primary := (bwtFwd src).2, consumed := src.length }

/-- The unit storage after BWT_FWD (R47). -/
def afterBwtFwd (_c : Latched) (src : List Byte) (u : Units) : Units := { u with bwt := u.bwt.afterFwd src }

/-- BWT_FWD on a device with parameters `P` (R136). -/
def execBwtFwdWith (P : Params) (s : State) : Host.Outcome State Fault Refusal :=
  runCommand P .bwtFwd runBwtFwd afterBwtFwd s

/-- BWT_FWD (R136). -/
def execBwtFwd (s : State) : Host.Outcome State Fault Refusal := execBwtFwdWith Config.params s

/-- exec_BWT_INV (R137). -/
def runBwtInv (c : Latched) (src : List Byte) : CommandResult :=
  match bwtInv src c.arg0.toNat with
  | none => .err .corruptPrimaryIndex c.arg0 {}
  | some B => .ok { out := B, consumed := src.length }

/-- The unit storage after BWT_INV (R47). -/
def afterBwtInv (c : Latched) (src : List Byte) (u : Units) : Units :=
  { u with bwt := u.bwt.afterInv src c.arg0.toNat }

/-- BWT_INV on a device with parameters `P` (R137). -/
def execBwtInvWith (P : Params) (s : State) : Host.Outcome State Fault Refusal :=
  runCommand P .bwtInv runBwtInv afterBwtInv s

/-- BWT_INV (R137). -/
def execBwtInv (s : State) : Host.Outcome State Fault Refusal := execBwtInvWith Config.params s

end Sys2Proof.Machine
end

