-- ==== Sys2Proof/Machine/Rle.lean ====
section
/-! DEFINITION. The RLE unit (43_rle.md): the encoder (streaming FSM and greedy form), the pair serialisation, the decoder,
and the meanings of RLE_ENC and RLE_DEC. -/

namespace Sys2Proof.Machine

/-- A pair (value, run_length) (R88). -/
abbrev RlePair := Byte × Nat

/-- The streaming encoder FSM from a run state, with cap `m`, to the end of the input (R166). -/
def rleEncFrom (m : Nat) : RunState → List Byte → List RlePair
  | .empty, [] => []
  | .run v r, [] => [(v, r)]
  | .empty, x :: X => rleEncFrom m (.run x 1) X
  | .run v r, x :: X =>
    if x = v ∧ r < m then rleEncFrom m (.run v (r + 1)) X else (v, r) :: rleEncFrom m (.run x 1) X

/-- rle_enc(X, m), by the FSM of R166, which R166 states equal to the greedy form of R165 (log 21). -/
def rleEnc (X : List Byte) (m : Nat) : List RlePair := rleEncFrom m .empty X

/-- How many leading values of `X` equal `v`, at most `k`: the inner loop of R165. -/
def runLength (v : Byte) : Nat → List Byte → Nat
  | 0, _ => 0
  | _ + 1, [] => 0
  | k + 1, x :: X => if x = v then runLength v k X + 1 else 0

/-- The outer loop of R165, at most `fuel` times round. -/
def rleGreedyFrom (m : Nat) : Nat → List Byte → List RlePair
  | 0, _ => []
  | _ + 1, [] => []
  | fuel + 1, v :: X =>
    (v, runLength v (m - 1) X + 1) :: rleGreedyFrom m fuel (X.drop (runLength v (m - 1) X))

/-- rle_enc(X, m) as R165 writes it: greedy from the left. Each round takes at least one value, so len(X) rounds suffice. -/
def rleGreedy (X : List Byte) (m : Nat) : List RlePair := rleGreedyFrom m X.length X

/-- ser(pairs): `[v, r]` for each pair, in order (R88). -/
def ser : List RlePair → List Byte
  | [] => []
  | (v, r) :: ps => v :: BitVec.ofNat 8 r :: ser ps

/-- The offset of the first pair with run_length 0, `off` being the offset of the first pair (R169). -/
def firstZeroRun : Nat → List Byte → Option Nat
  | off, _ :: r :: P => if r = 0 then some off else firstZeroRun (off + 2) P
  | _, [_] => none
  | _, [] => none

/-- Each pair's value repeated run_length times, in order (R169). -/
def expandPairs : List Byte → List Byte
  | v :: r :: P => List.replicate r.toNat v ++ expandPairs P
  | [_] => []
  | [] => []

/-- The sum of the run_length bytes (R187). -/
def sumRuns : List Byte → Nat
  | _ :: r :: P => r.toNat + sumRuns P
  | [_] => 0
  | [] => 0

/-- rle_dec(P); the error is the offset of CORRUPT_PAYLOAD: odd length first, then the lowest zero run (R169). It reads no
MAX_RUN (R171). -/
def rleDec (P : List Byte) : Except Nat (List Byte) :=
  if P.length % 2 = 1 then .error (P.length - 1)
  else match firstZeroRun 0 P with
    | some off => .error off
    | none => .ok (expandPairs P)

/-- The run state an RLE pass leaves: EMPTY at its end, and EMPTY at the start of the next (R46, R166). DESIGN CHOICE: a
decoder pass, which does not use the run state, leaves it EMPTY too, also one that fails (log 11). -/
def Units.afterRle (u : Units) : Units := { u with run := .empty }

/-- exec_RLE_ENC (R172). -/
def runRleEnc (c : Latched) (src : List Byte) : CommandResult :=
  .ok { out := ser (rleEnc src c.maxRun.toNat), consumed := src.length }

/-- The unit storage after RLE_ENC (R46). -/
def afterRleEnc (_c : Latched) (_src : List Byte) (u : Units) : Units := u.afterRle

/-- RLE_ENC on a device with parameters `P` (R172). -/
def execRleEncWith (P : Params) (s : State) : Host.Outcome State Fault Refusal :=
  runCommand P .rleEnc runRleEnc afterRleEnc s

/-- RLE_ENC (R172). -/
def execRleEnc (s : State) : Host.Outcome State Fault Refusal := execRleEncWith Config.params s

/-- exec_RLE_DEC (R173). -/
def runRleDec (_c : Latched) (src : List Byte) : CommandResult :=
  match rleDec src with
  | .error off => .err .corruptPayload (u32 off) {}
  | .ok X => .ok { out := X, consumed := src.length }

/-- The unit storage after RLE_DEC (R46). -/
def afterRleDec (_c : Latched) (_src : List Byte) (u : Units) : Units := u.afterRle

/-- RLE_DEC on a device with parameters `P` (R173). -/
def execRleDecWith (P : Params) (s : State) : Host.Outcome State Fault Refusal :=
  runCommand P .rleDec runRleDec afterRleDec s

/-- RLE_DEC (R173). -/
def execRleDec (s : State) : Host.Outcome State Fault Refusal := execRleDecWith Config.params s

end Sys2Proof.Machine
end

