-- ==== Sys2Proof/Machine/Container.lean ====
section
/-! DEFINITION. The block container framer (44_container.md): encoding one block with the passthrough policy, fault injection
and self-validation, decoding one frame, and the meanings of BLOCK_ENC and BLOCK_DEC. -/

namespace Sys2Proof.Machine

/-- SENTINEL, the header field that marks a RAW frame (R7, R85). -/
def sentinel : Nat := 0xFFFFFFFF

/-- Fault injection on the MTF output: INJ_MTF flips bit 0 of M[0] (R182). -/
def injectMtf (dbg : Word) (M : List Byte) : List Byte :=
  match M with
  | [] => []
  | x :: M' => if dbgInjMtf dbg then (x ^^^ 0x01) :: M' else x :: M'

/-- Fault injection on the RLE output: INJ_RLE flips bit 0 of the first pair's value (R182). -/
def injectRle (dbg : Word) (ps : List RlePair) : List RlePair :=
  match ps with
  | [] => []
  | (v, r) :: ps' => if dbgInjRle dbg then (v ^^^ 0x01, r) :: ps' else (v, r) :: ps'

/-- The candidate's MTF output for last column `L` (R181, R182). -/
def candidateIndices (L : List Byte) (dbg : Word) : List Byte := injectMtf dbg (mtfEnc L)

/-- The candidate's payload for last column `L` (R181, R182). -/
def candidatePayload (L : List Byte) (m : Nat) (dbg : Word) : List Byte :=
  ser (injectRle dbg (rleEnc (candidateIndices L dbg) m))

/-- The self-validation decode of a candidate: RLE, then MTF, then BWT inverse, compared to the block. A fail of any step
counts as a mismatch (R183). -/
def validates (payload : List Byte) (p : Nat) (Blk : List Byte) : Bool :=
  match rleDec payload with
  | .error _ => false
  | .ok Y => bwtInv (mtfDec Y) p == some Blk

/-- An XFORM frame (R87). -/
def xformFrame (p : Nat) (payload : List Byte) : List Byte := be32 (u32 p) ++ be32 (u32 payload.length) ++ payload

/-- A RAW frame (R86). -/
def rawFrame (Blk : List Byte) : List Byte := be32 (u32 sentinel) ++ be32 (u32 Blk.length) ++ Blk

/-- What block_enc returns (R185): the frame, its report, and whether validation rejected the candidate. -/
structure EncodedBlock where
  frame : List Byte
  info : FrameInfo
  valmis : Nat
  deriving DecidableEq, Repr

/-- The RAW outcome of block_enc (R185). -/
def encodeRaw (Blk : List Byte) (valmis : Nat) : EncodedBlock where
  frame := rawFrame Blk
  info := { xform := false, rawLen := Blk.length, payloadLen := Blk.length, header0 := sentinel }
  valmis := valmis

/-- The XFORM outcome of block_enc (R185). -/
def encodeXform (Blk payload : List Byte) (p : Nat) : EncodedBlock where
  frame := xformFrame p payload
  info := { xform := true, rawLen := Blk.length, payloadLen := payload.length, header0 := p }
  valmis := 0

/-- block_enc(Blk, m, sv, dbg): the size tier, then self-validation if it is on (R183, R185). -/
def blockEnc (Blk : List Byte) (m : Nat) (sv : Bool) (dbg : Word) : EncodedBlock :=
  let L := (bwtFwd Blk).1
  let p := (bwtFwd Blk).2
  let payload := candidatePayload L m dbg
  if Blk.length ≤ payload.length then encodeRaw Blk 0
  else if sv then (if validates payload p Blk then encodeXform Blk payload p else encodeRaw Blk 1)
  else encodeXform Blk payload p

/-- block_dec(S, at), the checks in the order of R187 (R225): the block, the bytes used, and the report, or the error
code. -/
def blockDec (maxBlock : Nat) (S : List Byte) (start : Nat) : Except ErrCode (List Byte × Nat × FrameInfo) :=
  let rem := S.length - start
  let h0 := rdBe32 S start
  let h1 := rdBe32 S (start + 4)
  let P := (S.drop (start + 8)).take h1
  if rem < 8 then .error .truncatedContainer
  else if h0 = sentinel then
    if rem - 8 < h1 then .error .truncatedContainer
    else .ok (P, 8 + h1, { xform := false, rawLen := h1, payloadLen := h1, header0 := h0 })
  else if h1 % 2 = 1 then .error .corruptPayload
  else if rem - 8 < h1 then .error .truncatedContainer
  else if (firstZeroRun 0 P).isSome then .error .corruptPayload
  else if maxBlock < sumRuns P then .error .blockTooLarge
  else if 0 < sumRuns P ∧ sumRuns P ≤ h0 then .error .corruptPrimaryIndex
  else .ok ((bwtInv (mtfDec (expandPairs P)) h0).getD [], 8 + h1,
            { xform := true, rawLen := sumRuns P, payloadLen := h1, header0 := h0 })

/-- What encoding one block leaves in the unit storage: the candidate's passes, then those of the validation decode where
it runs (R47, R150, R185). DESIGN CHOICE: a validation decode that fails in its RLE step makes no MTF or BWT pass (log 11). -/
def Units.afterBlockEnc (Blk : List Byte) (m : Nat) (sv : Bool) (dbg : Word) (u : Units) : Units :=
  let L := (bwtFwd Blk).1
  let p := (bwtFwd Blk).2
  let payload := candidatePayload L m dbg
  let u1 := ({ u with bwt := u.bwt.afterFwd Blk }.afterMtfEnc L).afterRle
  if Blk.length ≤ payload.length then u1
  else if sv then
    match rleDec payload with
    | .error _ => u1
    | .ok Y => { u1.afterMtfDec Y with bwt := u1.bwt.afterInv (mtfDec Y) p }
  else u1

/-- What decoding one frame leaves in the unit storage: the passes of an XFORM frame that decodes (R47, R150, R187). DESIGN
CHOICE: R45 and R150 call the decode of one block an MTF pass and R187 runs mtf_dec for XFORM only; in the model the decode
of a RAW frame is no pass of any unit, and the front list, the run state and the BWT storage stay as they were. So it is
with a frame that fails a check of R187 (log 11). -/
def Units.afterBlockDec (maxBlock : Nat) (S : List Byte) (start : Nat) (u : Units) : Units :=
  match blockDec maxBlock S start with
  | .error _ => u
  | .ok (_, _, f) =>
    if f.xform then
      let Y := expandPairs ((S.drop (start + 8)).take f.payloadLen)
      { (u.afterRle).afterMtfDec Y with bwt := u.bwt.afterInv (mtfDec Y) f.header0 }
    else u

/-- exec_BLOCK_ENC (R188). -/
def runBlockEnc (c : Latched) (src : List Byte) : CommandResult :=
  let e := blockEnc src c.maxRun.toNat c.selfValidate c.dbg
  .ok { out := e.frame, consumed := src.length, blocks := 1, xblocks := if e.info.xform then 1 else 0,
        valmis := e.valmis, last := some e.info }

/-- The unit storage after BLOCK_ENC (R47). -/
def afterBlockEnc (c : Latched) (src : List Byte) (u : Units) : Units :=
  u.afterBlockEnc src c.maxRun.toNat c.selfValidate c.dbg

/-- BLOCK_ENC on a device with parameters `P` (R188). -/
def execBlockEncWith (P : Params) (s : State) : Host.Outcome State Fault Refusal :=
  runCommand P .blockEnc runBlockEnc afterBlockEnc s

/-- BLOCK_ENC (R188). -/
def execBlockEnc (s : State) : Host.Outcome State Fault Refusal := execBlockEncWith Config.params s

/-- exec_BLOCK_DEC: the one frame at the start of the source window (R189). -/
def runBlockDec (P : Params) (_c : Latched) (src : List Byte) : CommandResult :=
  match blockDec P.maxBlock src 0 with
  | .error code => .err code 0 {}
  | .ok (Blk, used, f) =>
    .ok { out := Blk, consumed := used, blocks := 1, xblocks := if f.xform then 1 else 0, last := some f }

/-- The unit storage after BLOCK_DEC (R47). -/
def afterBlockDec (P : Params) (_c : Latched) (src : List Byte) (u : Units) : Units :=
  u.afterBlockDec P.maxBlock src 0

/-- BLOCK_DEC on a device with parameters `P` (R189). -/
def execBlockDecWith (P : Params) (s : State) : Host.Outcome State Fault Refusal :=
  runCommand P .blockDec (runBlockDec P) (afterBlockDec P) s

/-- BLOCK_DEC (R189). -/
def execBlockDec (s : State) : Host.Outcome State Fault Refusal := execBlockDecWith Config.params s

end Sys2Proof.Machine
end

