-- ==== Sys2Proof/Machine/Driver.lean ====
section
/-! DEFINITION. The chunking sequencer (45_driver.md): the block partition, `transform`, `inverse`, and the meanings of
TRANSFORM and INVERSE. -/

namespace Sys2Proof.Machine

/-- The block partition of `S`: one block in whole-file mode, blocks of `bs` bytes in fixed mode, no block for an empty
source (R201). -/
def partitionBlocks (S : List Byte) (wholeFile : Bool) (bs : Nat) : List (List Byte) :=
  if S.length = 0 then []
  else if wholeFile then [S]
  else (List.range ((S.length + bs - 1) / bs)).map (fun k => (S.drop (k * bs)).take bs)

/-- The running values of `transform` (R202). -/
structure TransformAcc where
  out : List Byte := []
  blocks : Nat := 0
  xblocks : Nat := 0
  valmis : Nat := 0
  last : Option FrameInfo := none
  deriving DecidableEq, Repr

/-- One round of `transform`: encode a block and emit its frame (R202). -/
def transformBlock (m : Nat) (sv : Bool) (dbg : Word) (a : TransformAcc) (Blk : List Byte) : TransformAcc :=
  let e := blockEnc Blk m sv dbg
  { out := a.out ++ e.frame, blocks := a.blocks + 1, xblocks := a.xblocks + (if e.info.xform then 1 else 0),
    valmis := a.valmis + e.valmis, last := some e.info }

/-- transform(S, c) (R202). -/
def transform (S : List Byte) (c : Latched) : TransformAcc :=
  (partitionBlocks S c.wholeFile c.blockSize.toNat).foldl
    (transformBlock c.maxRun.toNat c.selfValidate c.dbg) {}

/-- What TRANSFORM leaves in the unit storage: the passes over every block in order, and the sequencer at the end of the
source, with the output written so far no longer than the destination window (R8, R47, R48, R70; log 11). -/
def Units.afterTransform (S : List Byte) (c : Latched) (u : Units) : Units :=
  let t := transform S c
  { (partitionBlocks S c.wholeFile c.blockSize.toNat).foldl
      (fun v Blk => v.afterBlockEnc Blk c.maxRun.toNat c.selfValidate c.dbg) u with
    seq := { cursor := u32 S.length, frames := u32 t.blocks, written := u32 (min t.out.length c.dstCap.toNat) } }

/-- The running values of `inverse` (R205). `pos` always stands at a frame boundary (R206). -/
structure InverseAcc where
  pos : Nat := 0
  out : List Byte := []
  blocks : Nat := 0
  xblocks : Nat := 0
  last : Option FrameInfo := none
  deriving DecidableEq, Repr

/-- The partial result of an error of `inverse` (R205, R206). -/
def InverseAcc.part (a : InverseAcc) : Partial where
  out := a.out
  consumed := a.pos
  blocks := a.blocks
  xblocks := a.xblocks
  last := a.last

/-- The running values after a frame at `a.pos` gave block `Blk` with `used` bytes (R205). -/
def InverseAcc.append (a : InverseAcc) (Blk : List Byte) (used : Nat) (f : FrameInfo) : InverseAcc where
  pos := a.pos + used
  out := a.out ++ Blk
  blocks := a.blocks + 1
  xblocks := a.xblocks + (if f.xform then 1 else 0)
  last := some f

/-- How `inverse` ends: every frame decoded, or an error at the running position (R205). -/
inductive InverseEnd where
  | done (a : InverseAcc)
  | failed (code : ErrCode) (a : InverseAcc)
  deriving DecidableEq, Repr

/-- The loop of `inverse`, at most `fuel` times round (R205). Each round moves the position by at least 8, so len(S) rounds
always reach the end. -/
def inverseLoop (maxBlock : Nat) (S : List Byte) (cap : Nat) : Nat → InverseAcc → InverseEnd
  | 0, a => .done a
  | fuel + 1, a =>
    if a.pos = S.length then .done a
    else match blockDec maxBlock S a.pos with
      | .error code => .failed code a
      | .ok (Blk, used, f) =>
        if cap < a.out.length + Blk.length then .failed .outputOverflow a
        else inverseLoop maxBlock S cap fuel (a.append Blk used f)

/-- inverse(S, DST_CAP) (R205). -/
def inverse (maxBlock : Nat) (S : List Byte) (cap : Nat) : InverseEnd := inverseLoop maxBlock S cap S.length {}

/-- What the loop of `inverse` leaves in the unit storage, frame by frame (R47; log 11). -/
def inverseUnits (maxBlock : Nat) (S : List Byte) (cap : Nat) : Nat → InverseAcc → Units → Units
  | 0, _, u => u
  | fuel + 1, a, u =>
    if a.pos = S.length then u
    else match blockDec maxBlock S a.pos with
      | .error _ => u
      | .ok (Blk, used, f) =>
        if cap < a.out.length + Blk.length then u.afterBlockDec maxBlock S a.pos
        else inverseUnits maxBlock S cap fuel (a.append Blk used f) (u.afterBlockDec maxBlock S a.pos)

/-- The running values `inverse` ends with. -/
def InverseEnd.acc : InverseEnd → InverseAcc
  | .done a => a
  | .failed _ a => a

/-- What INVERSE leaves in the unit storage (R8, R47, R48; log 11). -/
def Units.afterInverse (maxBlock : Nat) (S : List Byte) (cap : Nat) (u : Units) : Units :=
  let a := (inverse maxBlock S cap).acc
  { inverseUnits maxBlock S cap S.length {} u with
    seq := { cursor := u32 a.pos, frames := u32 a.blocks, written := u32 a.out.length } }

/-- exec_TRANSFORM (R203). -/
def runTransform (c : Latched) (src : List Byte) : CommandResult :=
  let t := transform src c
  .ok { out := t.out, consumed := src.length, blocks := t.blocks, xblocks := t.xblocks, valmis := t.valmis,
        last := t.last }

/-- The unit storage after TRANSFORM (R47, R48). -/
def afterTransform (c : Latched) (src : List Byte) (u : Units) : Units := u.afterTransform src c

/-- TRANSFORM on a device with parameters `P` (R203). -/
def execTransformWith (P : Params) (s : State) : Host.Outcome State Fault Refusal :=
  runCommand P .transform runTransform afterTransform s

/-- TRANSFORM (R203). -/
def execTransform (s : State) : Host.Outcome State Fault Refusal := execTransformWith Config.params s

/-- exec_INVERSE (R208): the error info is the offset of the failing frame's header (R221). -/
def runInverse (P : Params) (c : Latched) (src : List Byte) : CommandResult :=
  match inverse P.maxBlock src c.dstCap.toNat with
  | .failed code a => .err code (u32 a.pos) a.part
  | .done a => .ok { out := a.out, consumed := src.length, blocks := a.blocks, xblocks := a.xblocks, last := a.last }

/-- The unit storage after INVERSE (R47, R48). -/
def afterInverse (P : Params) (c : Latched) (src : List Byte) (u : Units) : Units :=
  u.afterInverse P.maxBlock src c.dstCap.toNat

/-- INVERSE on a device with parameters `P` (R208). -/
def execInverseWith (P : Params) (s : State) : Host.Outcome State Fault Refusal :=
  runCommand P .inverse (runInverse P) (afterInverse P) s

/-- INVERSE (R208). -/
def execInverse (s : State) : Host.Outcome State Fault Refusal := execInverseWith Config.params s

end Sys2Proof.Machine
end

