-- ==== Sys2Proof/Machine/Port.lean ====
section
/-! DEFINITION. The register port (R20, R23): offsets, reads and writes of every register, and the issue of a command by a CMD
write (R100). -/

namespace Sys2Proof.Machine

/-- The offset of a register in the register block (R23). -/
def Reg.offset : Reg → Nat
  | .id => 0x00
  | .version => 0x04
  | .cap => 0x08
  | .maxBlock => 0x0C
  | .ctrl => 0x10
  | .blockSize => 0x14
  | .maxRun => 0x18
  | .cmd => 0x1C
  | .status => 0x20
  | .srcAddr => 0x24
  | .srcLen => 0x28
  | .dstAddr => 0x2C
  | .dstCap => 0x30
  | .arg0 => 0x34
  | .dbg => 0x38
  | .errInfo => 0x3C
  | .resLen => 0x40
  | .resPrimary => 0x44
  | .resConsumed => 0x48
  | .resBlocks => 0x4C
  | .resXformBlocks => 0x50
  | .resValMismatches => 0x54
  | .lastMode => 0x58
  | .lastRawLen => 0x5C
  | .lastPayloadLen => 0x60
  | .lastHeader0 => 0x64

/-- The register at an aligned offset; none for the reserved offsets 0x68..0xFC (R23, R42). -/
def Reg.ofOffset (off : Nat) : Option Reg :=
  match off with
  | 0x00 => some .id
  | 0x04 => some .version
  | 0x08 => some .cap
  | 0x0C => some .maxBlock
  | 0x10 => some .ctrl
  | 0x14 => some .blockSize
  | 0x18 => some .maxRun
  | 0x1C => some .cmd
  | 0x20 => some .status
  | 0x24 => some .srcAddr
  | 0x28 => some .srcLen
  | 0x2C => some .dstAddr
  | 0x30 => some .dstCap
  | 0x34 => some .arg0
  | 0x38 => some .dbg
  | 0x3C => some .errInfo
  | 0x40 => some .resLen
  | 0x44 => some .resPrimary
  | 0x48 => some .resConsumed
  | 0x4C => some .resBlocks
  | 0x50 => some .resXformBlocks
  | 0x54 => some .resValMismatches
  | 0x58 => some .lastMode
  | 0x5C => some .lastRawLen
  | 0x60 => some .lastPayloadLen
  | 0x64 => some .lastHeader0
  | _ => none

/-- The registers that are the result registers of R39: RES_* and LAST_*. -/
def Reg.isResult : Reg → Bool
  | .id => false
  | .version => false
  | .cap => false
  | .maxBlock => false
  | .ctrl => false
  | .blockSize => false
  | .maxRun => false
  | .cmd => false
  | .status => false
  | .srcAddr => false
  | .srcLen => false
  | .dstAddr => false
  | .dstCap => false
  | .arg0 => false
  | .dbg => false
  | .errInfo => false
  | .resLen => true
  | .resPrimary => true
  | .resConsumed => true
  | .resBlocks => true
  | .resXformBlocks => true
  | .resValMismatches => true
  | .lastMode => true
  | .lastRawLen => true
  | .lastPayloadLen => true
  | .lastHeader0 => true

/-- The offset in the register block of the platform address `a`, none outside the 256 bytes at CSR_BASE (R20, R61;
log 20, 23). -/
def csrOffset (P : Params) (a : Word) : Option Nat :=
  if (a - P.csrBase).toNat < 256 then some (a - P.csrBase).toNat else none

/-- The register port supports the access: 32 bits wide at a 4-byte-aligned offset in 0x00..0xFC (R42, R67). -/
def accessSupported (off width : Nat) : Bool := width == 32 && off % 4 == 0 && decide (off ≤ 0xFC)

/-- CAP: SA_ACCEL in bit 0, the rest 0 (R25). -/
def capValue (P : Params) : Word := if P.saAccel then 1 else 0

/-- The value each register holds or reads as; CMD reads 0 (R23–R42). -/
def Regs.value (P : Params) (r : Regs) : Reg → Word
  | .id => Config.idValue
  | .version => Config.versionValue
  | .cap => capValue P
  | .maxBlock => u32 P.maxBlock
  | .ctrl => r.ctrl
  | .blockSize => r.blockSize
  | .maxRun => r.maxRun
  | .cmd => 0
  | .status => r.status
  | .srcAddr => r.srcAddr
  | .srcLen => r.srcLen
  | .dstAddr => r.dstAddr
  | .dstCap => r.dstCap
  | .arg0 => r.arg0
  | .dbg => r.dbg
  | .errInfo => r.errInfo
  | .resLen => r.resLen
  | .resPrimary => r.resPrimary
  | .resConsumed => r.resConsumed
  | .resBlocks => r.resBlocks
  | .resXformBlocks => r.resXformBlocks
  | .resValMismatches => r.resValMismatches
  | .lastMode => r.lastMode
  | .lastRawLen => r.lastRawLen
  | .lastPayloadLen => r.lastPayloadLen
  | .lastHeader0 => r.lastHeader0

/-- A read of a register: its value goes to the host, with no side effect on the device (R68). A read of a result register
while BUSY = 1 gives a draw (R39, U4). -/
def readReg (P : Params) (r : Reg) (s : State) : State :=
  if r.isResult && statusBusy s.regs.status then
    { s with regData := Config.freeWord s.draws, draws := s.draws + 1 }
  else { s with regData := s.regs.value P r }

/-- A register access the port does not support: no effect on the device, the fault recorded for good (R42, R67; log 8). -/
def busFault (off width : Nat) (s : State) : State := { s with faults := s.faults ++ [.hostBusFault off width] }

/-- A register read at an offset: a reserved offset reads 0 (R42). -/
def portRead (P : Params) (off width : Nat) (s : State) : State :=
  if accessSupported off width then
    match Reg.ofOffset off with
    | some r => readReg P r s
    | none => { s with regData := 0 }
  else busFault off width s

/-- A CMD write (R100): lost while BUSY = 1 (R111), BAD_CMD for a reserved word (R82), else the issue of the command. -/
def cmdWrite (w : Word) (s : State) : Host.Outcome State Fault Refusal :=
  if statusBusy s.regs.status then .next (lostCommand s)
  else match decodeWord w with
    | .error _ => .next (badCommand w s)
    | .ok i => exec i s

/-- A write of a register (R23–R42): RO registers ignore it. -/
def writeReg (P : Params) (r : Reg) (v : Word) (s : State) : Host.Outcome State Fault Refusal :=
  match r with
  | .id => .next s
  | .version => .next s
  | .cap => .next s
  | .maxBlock => .next s
  | .ctrl => .next (ctrlWrite P v s)
  | .blockSize => .next { s with regs := { s.regs with blockSize := v } }
  | .maxRun => .next { s with regs := { s.regs with maxRun := v } }
  | .cmd => cmdWrite v s
  | .status => .next { s with regs := { s.regs with status := statusWrite v s.regs.status } }
  | .srcAddr => .next { s with regs := { s.regs with srcAddr := v } }
  | .srcLen => .next { s with regs := { s.regs with srcLen := v } }
  | .dstAddr => .next { s with regs := { s.regs with dstAddr := v } }
  | .dstCap => .next { s with regs := { s.regs with dstCap := v } }
  | .arg0 => .next { s with regs := { s.regs with arg0 := v } }
  | .dbg => .next { s with regs := { s.regs with dbg := dbgStored v } }
  | .errInfo => .next s
  | .resLen => .next s
  | .resPrimary => .next s
  | .resConsumed => .next s
  | .resBlocks => .next s
  | .resXformBlocks => .next s
  | .resValMismatches => .next s
  | .lastMode => .next s
  | .lastRawLen => .next s
  | .lastPayloadLen => .next s
  | .lastHeader0 => .next s

/-- A register write at an offset: an unsupported access has no effect (R67), a write while RST is asserted is ignored
(R250), a write to a reserved offset is ignored (R42). -/
def portWrite (P : Params) (off width : Nat) (v : Word) (s : State) : Host.Outcome State Fault Refusal :=
  if accessSupported off width then
    if s.rst then .next s
    else match Reg.ofOffset off with
      | some r => writeReg P r v s
      | none => .next s
  else .next (busFault off width s)

/-- A register write at a platform address: it reaches the register port at its offset from CSR_BASE, and the device not
at all outside the 256 bytes there (R20, R61). -/
def busWrite (P : Params) (a : Word) (width : Nat) (v : Word) (s : State) : Host.Outcome State Fault Refusal :=
  match csrOffset P a with
  | some off => portWrite P off width v s
  | none => .next s

/-- A register read at a platform address (R20, R61). -/
def busRead (P : Params) (a : Word) (width : Nat) (s : State) : State :=
  match csrOffset P a with
  | some off => portRead P off width s
  | none => s

end Sys2Proof.Machine
end

