-- ==== Sys2Proof/Machine/HostAgent.lean ====
section
/-! DEFINITION. The host agent (R16, R17): its data-memory accesses and the statements of its program (R93, R94). -/

namespace Sys2Proof.Machine

/-- The access of the host to address `a` is a window race of the command in flight: a write to the source window, or a
read or write of the destination window (R72). -/
def isRace (s : State) (a : Nat) (isWrite : Bool) : Bool :=
  match s.inFlight with
  | none => false
  | some f => f.cfg.inDest a || (isWrite && f.cfg.inSource a)

/-- A host write of one byte of data memory (R60, R72). -/
def hostStore (P : Params) (a : Nat) (b : Byte) (s : State) : Host.Outcome State Fault Refusal :=
  if P.memSize ≤ a then .fault (.hostMemAbsent a)
  else if isRace s a true then .fault (.hostWindowRace a)
  else .next { s with mem := writeByte s.mem a b }

/-- A host read of one byte of data memory (R60, R68, R72). -/
def hostLoad (P : Params) (a : Nat) (s : State) : Host.Outcome State Fault Refusal :=
  if P.memSize ≤ a then .fault (.hostMemAbsent a)
  else if isRace s a false then .fault (.hostWindowRace a)
  else .next { s with memData := readByte s.mem a }

/-- The host's expectation about what it just read: a failed one is counted (R93; log 14). -/
def expectThat (holds : Bool) (s : State) : State := if holds then s else { s with checkFails := s.checkFails + 1 }

/-- One transaction of a statement, the rest of the program being `rest` (R93). `mem` and `chk` move one byte at a time;
`poll` stays until its condition holds (log 15). -/
def runStmt (P : Params) (st : HostStmt) (rest : List HostStmt) (s : State) : Host.Outcome State Fault Refusal :=
  match st with
  | .write off width v => portWrite P off width v { s with host := rest }
  | .read off width => .next (portRead P off width { s with host := rest })
  | .busWrite a width v => busWrite P a width v { s with host := rest }
  | .busRead a width => .next (busRead P a width { s with host := rest })
  | .expect r v =>
    let s1 := readReg P r { s with host := rest }
    .next (expectThat (s1.regData == v) s1)
  | .poll r m v =>
    let s1 := readReg P r s
    if s1.regData &&& m = v then .next { s1 with host := rest } else .next s1
  | .store _ [] => .next { s with host := rest }
  | .store a (b :: bs) => hostStore P a b { s with host := if bs.isEmpty then rest else .store (a + 1) bs :: rest }
  | .check _ [] => .next { s with host := rest }
  | .check a (b :: bs) =>
    match hostLoad P a { s with host := if bs.isEmpty then rest else .check (a + 1) bs :: rest } with
    | .next s1 => .next (expectThat (s1.memData == b) s1)
    | .fault e => .fault e
    | .refused e => .refused e

/-- The host's move: its next transaction, or nothing when its program is at its end. -/
def hostMove (P : Params) (s : State) : Host.Outcome State Fault Refusal :=
  match s.host with
  | [] => .next s
  | st :: rest => runStmt P st rest s

/-- The engine's move: the completion step, enabled while a command is in flight (R106). -/
def engineMove (s : State) : Host.Outcome State Fault Refusal :=
  match s.inFlight with
  | none => .next s
  | some f => exec f.command s

/-! The notation of R93 and R94 -/

/-- `wr NAME, v` (R93). -/
def wr (r : Reg) (v : Word) : HostStmt := .write r.offset 32 v

/-- `rd NAME` (R93). -/
def rd (r : Reg) : HostStmt := .read r.offset 32

/-- `win s, sl, d, dc` (R94). -/
def win (s sl d dc : Word) : List HostStmt := [wr .srcAddr s, wr .srcLen sl, wr .dstAddr d, wr .dstCap dc]

/-- `run OP` (R94): the CMD write, then wait until BUSY = 0. -/
def run (i : Instr) : List HostStmt := [wr .cmd (encode i), .poll .status 0x1 0x0]

/-- `clr` (R94): clear DONE, ERR, VAL_MISMATCH and CMD_OVR. -/
def clr : List HostStmt := [wr .status 0x1E]

/-- The state in which the host's very next transaction is the CMD write of the word whose low `nbits` bits are those of
`w`, on a device that is idle and out of reset (log 5). -/
def placeCmdWrite (s : State) (nbits w : Nat) : State :=
  { s with
    regs := { s.regs with status := setBit s.regs.status 0 false }
    inFlight := none
    rst := false
    host := .write Reg.cmd.offset 32 (BitVec.ofNat 32 (w % 2 ^ nbits)) :: s.host
    schedule := .host :: s.schedule }

end Sys2Proof.Machine
end

