-- ==== Sys2Proof/Machine/Step.lean ====
section
/-! DEFINITION. One step of the machine: one move of one agent (R17, R71). -/

namespace Sys2Proof.Machine

/-- One move (R17): the host's next transaction, the engine's completion step, or a change of the RST input. -/
def runMove (m : Move) (s : State) : Host.Outcome State Fault Refusal :=
  match m with
  | .host => hostMove Config.params s
  | .engine => engineMove s
  | .rstAssert => .next (rstAssert s)
  | .rstRelease => .next (rstRelease s)

/-- One step: the move the schedule names. With the schedule used up, a command in flight completes (R109), else the host
moves, and with nothing to do the state is held unchanged (R236; log 4). -/
def step (s : State) : Host.Outcome State Fault Refusal :=
  match s.schedule with
  | m :: rest => runMove m { s with schedule := rest }
  | [] => if s.inFlight.isSome then engineMove s else hostMove Config.params s

/-- `s` with the command word `w` where the machine takes its next instruction from: the host's next transaction, a CMD
write, on an idle device (R21, R100; log 5). -/
def State.withFetchWord (s : State) (nbits w : Nat) : State := placeCmdWrite s nbits w

end Sys2Proof.Machine
end

