-- ==== Sys2Proof/Safety.lean ====
section
/-! DEFINITION. What the claims call a safe state and a safe step: the invariant of the machine, the duties of the host, and
the frame of a command. -/

namespace Sys2Proof.Safety

open Sys2Proof.Machine

/-- The registers keep the form the rules give them: reserved bits of CTRL, DBG and STATUS read 0 (R27, R35, R41), ERR_CODE
is 0 while ERR is 0 and never above 0x0A (R36, R220), LAST_MODE is 0, 2 or 3 (R39). -/
structure RegsWellFormed (r : Regs) : Prop where
  ctrl : ctrlStored r.ctrl = r.ctrl
  dbg : dbgStored r.dbg = r.dbg
  status : r.status &&& 0xFFFF00E0#32 = 0#32
  errCode : statusErr r.status = false → statusErrCode r.status = errNone
  errCodeRange : (statusErrCode r.status).toNat ≤ 0x0A
  lastMode : r.lastMode = 0 ∨ r.lastMode = 2 ∨ r.lastMode = 3

/-- While a command is in flight: it passed the issue checks (R102, R104), and DONE, ERR, VAL_MISMATCH and ERR_CODE are 0
(R101). -/
structure FlightWellFormed (P : Params) (s : State) (f : InFlight) : Prop where
  checked : issueCheck P f.command f.cfg = none
  done : statusDone s.regs.status = false
  err : statusErr s.regs.status = false
  valMismatch : statusValMismatch s.regs.status = false
  errCode : statusErrCode s.regs.status = errNone

/-- The invariant of the machine on a device with parameters `P`. -/
structure Inv (P : Params) (s : State) : Prop where
  /-- Data memory is in canonical form. -/
  memWf : Memory.wf s.mem
  /-- No byte lies outside data memory (R60). -/
  memRange : ∀ x ∈ s.mem, x.1 < P.memSize
  /-- BUSY = 1 exactly when a command is in flight (R44). -/
  busy : statusBusy s.regs.status = s.inFlight.isSome
  flight : ∀ f, s.inFlight = some f → FlightWellFormed P s f
  regs : RegsWellFormed s.regs
  /-- The front list is a permutation of 0..255 (R45). -/
  front : s.units.front.Perm byteValues
  /-- A run length is between 1 and 255 (R46). -/
  run : ∀ v r, s.units.run = .run v r → 1 ≤ r ∧ r ≤ 255
  /-- While RST is asserted the registers hold their reset values and nothing is in flight (R250). -/
  reset : s.rst = true → s.regs = Regs.reset ∧ s.inFlight = none

/-- The configuration registers, which no completion, error, abort or issue changes (R103, R227). -/
structure SameConfiguration (r r' : Regs) : Prop where
  ctrl : r'.ctrl = r.ctrl
  blockSize : r'.blockSize = r.blockSize
  maxRun : r'.maxRun = r.maxRun
  srcAddr : r'.srcAddr = r.srcAddr
  srcLen : r'.srcLen = r.srcLen
  dstAddr : r'.dstAddr = r.dstAddr
  dstCap : r'.dstCap = r.dstCap
  arg0 : r'.arg0 = r.arg0
  dbg : r'.dbg = r.dbg

/-- The result registers of R39. -/
structure SameResults (r r' : Regs) : Prop where
  resLen : r'.resLen = r.resLen
  resPrimary : r'.resPrimary = r.resPrimary
  resConsumed : r'.resConsumed = r.resConsumed
  resBlocks : r'.resBlocks = r.resBlocks
  resXformBlocks : r'.resXformBlocks = r.resXformBlocks
  resValMismatches : r'.resValMismatches = r.resValMismatches
  lastMode : r'.lastMode = r.lastMode
  lastRawLen : r'.lastRawLen = r.lastRawLen
  lastPayloadLen : r'.lastPayloadLen = r.lastPayloadLen
  lastHeader0 : r'.lastHeader0 = r.lastHeader0

/-- What lies outside the device: the host's program and view, the schedule, the RST input and the recorded faults. -/
structure SameOutside (s s' : State) : Prop where
  rst : s'.rst = s.rst
  faults : s'.faults = s.faults
  host : s'.host = s.host
  schedule : s'.schedule = s.schedule
  regData : s'.regData = s.regData
  memData : s'.memData = s.memData
  checkFails : s'.checkFails = s.checkFails

/-- Every byte of data memory outside the destination window of `c` reads as before (R63, R70). -/
def SameOutsideDest (c : Latched) (s s' : State) : Prop :=
  ∀ a, c.inDest a = false → readByte s'.mem a = readByte s.mem a

/-- Every byte of data memory reads as before. -/
def SameMemory (s s' : State) : Prop := ∀ a, readByte s'.mem a = readByte s.mem a

/-- Command `i` is in flight with latched configuration `c` (R44, R104). -/
def Flying (s : State) (i : Instr) (c : Latched) : Prop := s.inFlight = some { command := i, cfg := c }

/-- Both windows of `c` lie in data memory (R62, R63). -/
def WindowsInMemory (P : Params) (c : Latched) : Prop := c.srcValid P = true ∧ c.dstValid P = true

/-- The registers of R39 hold the LAST_* values of R107 for the last frame `last`. -/
def LastRegsHold (r : Regs) (last : Option FrameInfo) : Prop :=
  match last with
  | none => r.lastMode = 0 ∧ r.lastRawLen = 0 ∧ r.lastPayloadLen = 0 ∧ r.lastHeader0 = 0
  | some f => r.lastMode = (if f.xform then 3 else 2) ∧ r.lastRawLen = u32 f.rawLen
      ∧ r.lastPayloadLen = u32 f.payloadLen ∧ r.lastHeader0 = u32 f.header0

/-- `t` is `s` after a successful completion with result `res` (R70, R106, R107): the output at DST_ADDR and no other byte
changed, every result register set, BUSY 0, DONE 1, VAL_MISMATCH as the result says, and nothing else of the device's
registers changed. -/
structure Succeeded (c : Latched) (res : Result) (s t : State) : Prop where
  output : readBytes t.mem c.dstAddr.toNat res.out.length = res.out
  memory : ∀ a, a < c.dstAddr.toNat ∨ c.dstAddr.toNat + res.out.length ≤ a → readByte t.mem a = readByte s.mem a
  resLen : t.regs.resLen = u32 res.out.length
  resPrimary : t.regs.resPrimary = u32 res.primary
  resConsumed : t.regs.resConsumed = u32 res.consumed
  resBlocks : t.regs.resBlocks = u32 res.blocks
  resXformBlocks : t.regs.resXformBlocks = u32 res.xblocks
  resValMismatches : t.regs.resValMismatches = u32 res.valmis
  last : LastRegsHold t.regs res.last
  busy : statusBusy t.regs.status = false
  done : statusDone t.regs.status = true
  valMismatch : statusValMismatch t.regs.status = decide (0 < res.valmis)
  err : statusErr t.regs.status = statusErr s.regs.status
  errCode : statusErrCode t.regs.status = statusErrCode s.regs.status
  cmdOvr : statusCmdOvr t.regs.status = statusCmdOvr s.regs.status
  errInfo : t.regs.errInfo = s.regs.errInfo
  config : SameConfiguration s.regs t.regs
  inFlight : t.inFlight = none
  outside : SameOutside s t

/-- `t` is `s` after an error completion at the completion step (R70, R108, R227): the defined partial output at DST_ADDR,
every other byte of the destination window a draw of its own, no byte outside the window changed, the result registers of
R108, the cause in ERR_CODE and ERR_INFO, and no other register changed. -/
structure Failed (c : Latched) (code : ErrCode) (info : Word) (p : Partial) (s t : State) : Prop where
  output : readBytes t.mem c.dstAddr.toNat p.out.length = p.out
  draws : ∀ k, p.out.length ≤ k → k < c.dstCap.toNat →
    readByte t.mem (c.dstAddr.toNat + k) = Config.freeByte (s.draws + (k - p.out.length))
  memory : SameOutsideDest c s t
  resLen : t.regs.resLen = u32 p.out.length
  resPrimary : t.regs.resPrimary = 0
  resConsumed : t.regs.resConsumed = u32 p.consumed
  resBlocks : t.regs.resBlocks = u32 p.blocks
  resXformBlocks : t.regs.resXformBlocks = u32 p.xblocks
  resValMismatches : t.regs.resValMismatches = 0
  last : LastRegsHold t.regs p.last
  busy : statusBusy t.regs.status = false
  done : statusDone t.regs.status = true
  err : statusErr t.regs.status = true
  errCode : statusErrCode t.regs.status = code.value
  valMismatch : statusValMismatch t.regs.status = false
  cmdOvr : statusCmdOvr t.regs.status = statusCmdOvr s.regs.status
  errInfo : t.regs.errInfo = info
  config : SameConfiguration s.regs t.regs
  inFlight : t.inFlight = none
  outside : SameOutside s t

/-- `t` is `s` after an issue-time error completion (R113): ERR_CODE, ERR_INFO, ERR and DONE set, every result register 0,
no data memory touched, nothing in flight. -/
structure RefusedAtIssue (code : ErrCode) (info : Word) (s t : State) : Prop where
  memory : t.mem = s.mem
  results : SameResults Regs.reset t.regs
  busy : statusBusy t.regs.status = statusBusy s.regs.status
  done : statusDone t.regs.status = true
  err : statusErr t.regs.status = true
  errCode : statusErrCode t.regs.status = code.value
  valMismatch : statusValMismatch t.regs.status = false
  cmdOvr : statusCmdOvr t.regs.status = statusCmdOvr s.regs.status
  errInfo : t.regs.errInfo = info
  config : SameConfiguration s.regs t.regs
  inFlight : t.inFlight = none
  units : t.units = s.units
  outside : SameOutside s t

/-- `t` is `s` after command `i` was issued (R101, R103, R104): DONE, ERR, ERR_CODE, VAL_MISMATCH and ERR_INFO cleared, the
configuration latched, BUSY set, and nothing else changed. -/
structure Issued (i : Instr) (s t : State) : Prop where
  inFlight : t.inFlight = some { command := i, cfg := s.regs.latch }
  busy : statusBusy t.regs.status = true
  done : statusDone t.regs.status = false
  err : statusErr t.regs.status = false
  errCode : statusErrCode t.regs.status = errNone
  valMismatch : statusValMismatch t.regs.status = false
  cmdOvr : statusCmdOvr t.regs.status = statusCmdOvr s.regs.status
  errInfo : t.regs.errInfo = 0
  results : SameResults s.regs t.regs
  config : SameConfiguration s.regs t.regs
  memory : t.mem = s.mem
  units : t.units = s.units
  draws : t.draws = s.draws
  outside : SameOutside s t

/-- exec_OP(cfg, src) of R105 for each command: the pure function its completion runs (R14, R110). -/
def commandResult (P : Params) (i : Instr) (c : Latched) (src : List Byte) : CommandResult :=
  match i with
  | .bwtFwd => runBwtFwd c src
  | .bwtInv => runBwtInv c src
  | .mtfEnc => runMtfEnc c src
  | .mtfDec => runMtfDec c src
  | .rleEnc => runRleEnc c src
  | .rleDec => runRleDec c src
  | .blockEnc => runBlockEnc c src
  | .blockDec => runBlockDec P c src
  | .transform => runTransform c src
  | .inverse => runInverse P c src

/-- X <lex Y as R13 writes it: equal before index k and smaller there. -/
def LexBefore (X Y : List Byte) : Prop :=
  ∃ k, k < X.length ∧ X.take k = Y.take k ∧ (X.getD k 0).toNat < (Y.getD k 0).toNat

/-- i ≺ j as R130 writes it. -/
def RotBefore (B : List Byte) (i j : Nat) : Prop :=
  LexBefore (rot B i) (rot B j) ∨ (rot B i = rot B j ∧ i < j)

/-- The fault injection of a latched DBG is off (R41). -/
def InjectionOff (dbg : Word) : Prop := dbgInjMtf dbg = false ∧ dbgInjRle dbg = false

end Sys2Proof.Safety
end

