-- ==== Sys2Proof/Certificates/Slice0/Obligations.lean ====
section
/-! DEFINITION. The statements about the device, each a proposition that the provers settle. -/

open Sys2Proof Sys2Proof.Machine Sys2Proof.Safety

/-! Decoding and encoding -/

/-- Command words written out from the opcode map of R81 decode to their commands. -/
def Obligations.WordsOfTheOpcodeMapDecode : Prop :=
  decodeWord 0x00000001#32 = .ok .bwtFwd ∧ decodeWord 0x00000003#32 = .ok .mtfEnc
    ∧ decodeWord 0x00000006#32 = .ok .rleDec ∧ decodeWord 0x00000007#32 = .ok .blockEnc
    ∧ decodeWord 0x0000000A#32 = .ok .inverse

/-- A word decodes to a command exactly when it is that command's word: no bit of the word is dropped (R80, R81). -/
def Obligations.DecodeAndEncodeAgree : Prop :=
  ∀ (w : Word) (i : Instr), decodeWord w = .ok i ↔ w = encode i

/-- The reserved words, by their bits, are exactly those the decoder turns away, RSVD first (R80, R82). -/
def Obligations.ReservedWordsAreTurnedAwayByName : Prop :=
  ∀ w : Word,
    (decodeWord w = .error .reservedBits ↔ 0x100 ≤ w.toNat)
    ∧ (decodeWord w = .error .reservedOpcode ↔ w.toNat < 0x100 ∧ (w.toNat = 0x00 ∨ 0x0B ≤ w.toNat))

/-- A frame header field is written most significant byte first and read back whole, wherever it stands (R11, R84). -/
def Obligations.HeaderFieldRoundTrips : Prop :=
  ∀ (X Y : List Byte) (w : Word),
    rdBe32 (X ++ be32 w ++ Y) X.length = w.toNat
    ∧ be32 w = [BitVec.ofNat 8 (w.toNat / 2 ^ 24), BitVec.ofNat 8 (w.toNat / 2 ^ 16), BitVec.ofNat 8 (w.toNat / 2 ^ 8),
        BitVec.ofNat 8 w.toNat]

/-! The step -/

/-- The step runs the decoded command: a CMD write of the host that decodes runs `exec` on the state with that statement
taken off (and the move taken off a schedule), a command in flight runs `exec` as the engine's move, and a placed word is
run by the very next step (R100, R106; log 3, 4, 5). -/
def Obligations.StepRunsTheDecodedCommand : Prop :=
  (∀ (s : State) (w : Word) (i : Instr) (rest : List HostStmt), s.host = .write 0x1C 32 w :: rest → s.rst = false →
      statusBusy s.regs.status = false → decodeWord w = .ok i →
      (∀ ms, s.schedule = .host :: ms → step s = exec i { s with schedule := ms, host := rest })
      ∧ (s.schedule = [] → s.inFlight = none → step s = exec i { s with host := rest }))
  ∧ (∀ (s : State) (f : InFlight), s.inFlight = some f →
      (∀ ms, s.schedule = .engine :: ms → step s = exec f.command { s with schedule := ms })
      ∧ (s.schedule = [] → step s = exec f.command s))
  ∧ (∀ (s : State) (i : Instr), step (s.withFetchWord 32 (encode i).toNat)
      = exec i { s with regs := { s.regs with status := setBit s.regs.status 0 false }, inFlight := none, rst := false })

/-- With the schedule used up, a command in flight completes in one step: BUSY 0, DONE 1, nothing in flight (R109). It rests
on the model's choice that the engine then moves first (log 4). -/
def Obligations.CommandInFlightCompletes : Prop :=
  ∀ s : State, Inv Config.params s → s.schedule = [] → s.inFlight.isSome = true →
    ∃ t, step s = .next t ∧ t.inFlight = none ∧ statusBusy t.regs.status = false ∧ statusDone t.regs.status = true

/-- The invariant holds at reset. It includes named values the model chose for the unit storage (log 11). -/
def Obligations.InvariantHoldsAtReset : Prop := Inv Config.params State.reset

/-- Every step keeps the invariant: canonical memory inside MEM_SIZE, BUSY exactly with a command in flight that passed the
checks, reserved bits 0, the front list a permutation, RST holding the reset state. -/
def Obligations.EveryStepKeepsTheInvariant : Prop :=
  ∀ s t : State, Inv Config.params s → step s = .next t → Inv Config.params t

/-- A command comes into flight only by a CMD write of its word (R100). -/
def Obligations.OnlyACmdWriteStartsACommand : Prop :=
  ∀ (s t : State) (f : InFlight), step s = .next t → s.inFlight = none → t.inFlight = some f →
    ∃ rest, s.host = .write 0x1C 32 (encode f.command) :: rest
      ∨ ∃ a, csrOffset Config.params a = some 0x1C ∧ s.host = .busWrite a 32 (encode f.command) :: rest

/-- CTRL.SELF_VALIDATE goes from 1 to 0 only by a host write of 0 to it (R28). -/
def Obligations.SelfValidationIsDisabledOnlyByAHostWrite : Prop :=
  ∀ s t : State, step s = .next t → ctrlSelfValidate s.regs.ctrl = true → ctrlSelfValidate t.regs.ctrl = false →
    ∃ (v : Word) (rest : List HostStmt), v.getLsbD 0 = false
      ∧ (s.host = .write 0x10 32 v :: rest
        ∨ ∃ a, csrOffset Config.params a = some 0x10 ∧ s.host = .busWrite a 32 v :: rest)

/-! Issue -/

/-- The issue checks are made in the order of R102, over the windows of R62 to R64, the first that fails giving the error
(R223). -/
def Obligations.IssueChecksFollowTheirOrder : Prop :=
  ∀ (P : Params) (i : Instr) (c : Latched),
    let srcOk := c.srcLen.toNat = 0 ∨ c.srcAddr.toNat + c.srcLen.toNat ≤ P.memSize
    let dstOk := c.dstCap.toNat = 0 ∨ c.dstAddr.toNat + c.dstCap.toNat ≤ P.memSize
    let overlap := 0 < c.srcLen.toNat ∧ 0 < c.dstCap.toNat ∧ c.srcAddr.toNat < c.dstAddr.toNat + c.dstCap.toNat
      ∧ c.dstAddr.toNat < c.srcAddr.toNat + c.srcLen.toNat
    let regionBad := ¬ srcOk ∨ ¬ dstOk ∨ overlap
    let maxRunBad := (i = .rleEnc ∨ i = .blockEnc ∨ i = .transform) ∧ ¬ (1 ≤ c.maxRun.toNat ∧ c.maxRun.toNat ≤ 255)
    let sizeBad := i = .transform ∧ c.wholeFile = false ∧ (c.blockSize.toNat = 0 ∨ P.maxBlock < c.blockSize.toNat)
    let tooLarge := (i = .bwtFwd ∨ i = .bwtInv ∨ i = .blockEnc ∨ (i = .transform ∧ c.wholeFile = true))
      ∧ P.maxBlock < c.srcLen.toNat
    (regionBad → issueCheck P i c = some (.badRegion, 0))
    ∧ (¬ regionBad → maxRunBad → issueCheck P i c = some (.badMaxRun, c.maxRun))
    ∧ (¬ regionBad → ¬ maxRunBad → sizeBad → issueCheck P i c = some (.unsupportedBlockSize, c.blockSize))
    ∧ (¬ regionBad → ¬ maxRunBad → ¬ sizeBad → tooLarge → issueCheck P i c = some (.blockTooLarge, c.srcLen))
    ∧ (¬ regionBad → ¬ maxRunBad → ¬ sizeBad → ¬ tooLarge → issueCheck P i c = none)

/-- A command that passes its checks is issued: STATUS and ERR_INFO as R101 says, the configuration latched (R103), BUSY set
(R104), and nothing else changed. For every command. -/
def Obligations.IssueLatchesTheConfiguration : Prop :=
  ∀ (i : Instr) (s : State), s.inFlight = none → issueCheck Config.params i s.regs.latch = none →
    ∃ t, exec i s = .next t ∧ Issued i s t

/-- A command that fails a check ends in the issue step, with no data memory touched (R113). For every command. -/
def Obligations.FailedIssueCheckEndsTheCommand : Prop :=
  ∀ (i : Instr) (s : State) (code : ErrCode) (info : Word), s.inFlight = none →
    issueCheck Config.params i s.regs.latch = some (code, info) →
    ∃ t, exec i s = .next t ∧ RefusedAtIssue code info s t

/-- A reserved command word is refused at issue with BAD_CMD, and ERR_INFO receives the word (R82). -/
def Obligations.ReservedWordIsRefusedWithBadCmd : Prop :=
  ∀ (w : Word) (s : State), s.inFlight = none → statusBusy s.regs.status = false →
    (w.toNat % 0x100 = 0x00 ∨ 0x0B ≤ w.toNat % 0x100 ∨ w.toNat / 0x100 ≠ 0) →
    ∃ t, cmdWrite w s = .next t ∧ RefusedAtIssue .badCmd w s t

/-- A CMD write while BUSY = 1 sets CMD_OVR and changes nothing else, whatever the word (R111). -/
def Obligations.CmdWriteWhileBusyIsLost : Prop :=
  ∀ (w : Word) (s : State), statusBusy s.regs.status = true →
    ∃ t, cmdWrite w s = .next t ∧ statusCmdOvr t.regs.status = true
      ∧ (∀ k, k ≠ 4 → t.regs.status.getLsbD k = s.regs.status.getLsbD k)
      ∧ t = { s with regs := { s.regs with status := t.regs.status } }

/-- From the reset state (R50, R253 where R106, R186, R188 and R189 do not contradict it; log 22): TRANSFORM is refused with
UNSUPPORTED_BLOCK_SIZE and ERR_INFO 0; the commands on an empty source other than BLOCK_ENC and BLOCK_DEC then complete with
empty output and no error; BLOCK_ENC, whose frame has 8 bytes, overflows the empty window, and BLOCK_DEC finds no header. -/
def Obligations.CommandsFromTheResetState : Prop :=
  (∃ t, exec .transform State.reset = .next t ∧ RefusedAtIssue .unsupportedBlockSize 0 State.reset t)
  ∧ (∀ i : Instr, i ≠ .transform →
      ∃ t, exec i State.reset = .next t ∧ Issued i State.reset t
        ∧ ∃ u, exec i t = .next u ∧ u.regs.resLen = 0 ∧ statusDone u.regs.status = true
          ∧ statusErr u.regs.status = decide (i = .blockEnc ∨ i = .blockDec)
          ∧ (i = .blockEnc → statusErrCode u.regs.status = ErrCode.outputOverflow.value ∧ u.regs.errInfo = 8)
          ∧ (i = .blockDec → statusErrCode u.regs.status = ErrCode.truncatedContainer.value ∧ u.regs.errInfo = 0))

/-! Completion of each command -/

/-- BWT_FWD completes with the last column in the destination and the primary index in RES_PRIMARY (R132, R136). -/
def Obligations.BwtFwdCompletes : Prop :=
  ∀ (s : State) (c : Latched), Memory.wf s.mem → Flying s .bwtFwd c → WindowsInMemory Config.params c →
    c.srcLen.toNat ≤ c.dstCap.toNat →
    ∃ t, exec .bwtFwd s = .next t ∧ Succeeded c
      { out := (bwtFwd (s.source c)).1, primary := (bwtFwd (s.source c)).2, consumed := c.srcLen.toNat } s t

/-- BWT_INV completes with the block when the source is empty or ARG0 is below its length (R134, R137). -/
def Obligations.BwtInvCompletes : Prop :=
  ∀ (s : State) (c : Latched), Memory.wf s.mem → Flying s .bwtInv c → WindowsInMemory Config.params c →
    c.srcLen.toNat ≤ c.dstCap.toNat → (c.srcLen.toNat = 0 ∨ c.arg0.toNat < c.srcLen.toNat) →
    ∃ t B, bwtInv (s.source c) c.arg0.toNat = some B ∧ B.length = c.srcLen.toNat
      ∧ exec .bwtInv s = .next t ∧ Succeeded c { out := B, consumed := c.srcLen.toNat } s t

/-- BWT_INV on a nonempty source with ARG0 out of range ends with CORRUPT_PRIMARY_INDEX and ERR_INFO = ARG0, also where the
destination is too small (R137, R224). -/
def Obligations.BwtInvReportsABadIndex : Prop :=
  ∀ (s : State) (c : Latched), Memory.wf s.mem → Flying s .bwtInv c → WindowsInMemory Config.params c →
    0 < c.srcLen.toNat → c.srcLen.toNat ≤ c.arg0.toNat →
    ∃ t, exec .bwtInv s = .next t ∧ Failed c .corruptPrimaryIndex c.arg0 {} s t

/-- MTF_ENC completes with as many indices as source bytes (R152, R156). -/
def Obligations.MtfEncCompletes : Prop :=
  ∀ (s : State) (c : Latched), Memory.wf s.mem → Flying s .mtfEnc c → WindowsInMemory Config.params c →
    c.srcLen.toNat ≤ c.dstCap.toNat →
    ∃ t, exec .mtfEnc s = .next t ∧ (mtfEnc (s.source c)).length = c.srcLen.toNat
      ∧ Succeeded c { out := mtfEnc (s.source c), consumed := c.srcLen.toNat } s t

/-- MTF_DEC completes with as many bytes as source indices (R153, R157). -/
def Obligations.MtfDecCompletes : Prop :=
  ∀ (s : State) (c : Latched), Memory.wf s.mem → Flying s .mtfDec c → WindowsInMemory Config.params c →
    c.srcLen.toNat ≤ c.dstCap.toNat →
    ∃ t, exec .mtfDec s = .next t ∧ (mtfDec (s.source c)).length = c.srcLen.toNat
      ∧ Succeeded c { out := mtfDec (s.source c), consumed := c.srcLen.toNat } s t

/-- RLE_ENC completes with the serialised pairs of the greedy encoder of R165 (R168, R172). -/
def Obligations.RleEncCompletes : Prop :=
  ∀ (s : State) (c : Latched), Memory.wf s.mem → Flying s .rleEnc c → WindowsInMemory Config.params c →
    2 * (rleGreedy (s.source c) c.maxRun.toNat).length ≤ c.dstCap.toNat →
    ∃ t, exec .rleEnc s = .next t
      ∧ Succeeded c { out := ser (rleGreedy (s.source c) c.maxRun.toNat), consumed := c.srcLen.toNat } s t

/-- RLE_DEC completes with the expansion of an even source with no zero run (R169, R173). -/
def Obligations.RleDecCompletes : Prop :=
  ∀ (s : State) (c : Latched), Memory.wf s.mem → Flying s .rleDec c → WindowsInMemory Config.params c →
    c.srcLen.toNat % 2 = 0 → (∀ j, 2 * j + 1 < c.srcLen.toNat → (s.source c).getD (2 * j + 1) 0 ≠ 0) →
    (expandPairs (s.source c)).length ≤ c.dstCap.toNat →
    ∃ t, exec .rleDec s = .next t ∧ Succeeded c { out := expandPairs (s.source c), consumed := c.srcLen.toNat } s t

/-- RLE_DEC of an odd source ends with CORRUPT_PAYLOAD at its last byte; of an even source, at the lowest pair with a zero
run (R169, R173). -/
def Obligations.RleDecReportsACorruptPayload : Prop :=
  ∀ (s : State) (c : Latched), Memory.wf s.mem → Flying s .rleDec c → WindowsInMemory Config.params c →
    (c.srcLen.toNat % 2 = 1 →
      ∃ t, exec .rleDec s = .next t ∧ Failed c .corruptPayload (u32 (c.srcLen.toNat - 1)) {} s t)
    ∧ (∀ j, c.srcLen.toNat % 2 = 0 → 2 * j + 1 < c.srcLen.toNat → (s.source c).getD (2 * j + 1) 0 = 0 →
        (∀ k, k < j → (s.source c).getD (2 * k + 1) 0 ≠ 0) →
        ∃ t, exec .rleDec s = .next t ∧ Failed c .corruptPayload (u32 (2 * j)) {} s t)

/-- BLOCK_ENC completes with the frame of block_enc and its report (R185, R188) whenever the frame fits in the destination;
SRC_LEN + 8 bytes always do (R188). -/
def Obligations.BlockEncCompletes : Prop :=
  ∀ (s : State) (c : Latched), Memory.wf s.mem → Flying s .blockEnc c → WindowsInMemory Config.params c →
    let e := blockEnc (s.source c) c.maxRun.toNat c.selfValidate c.dbg
    (e.frame.length ≤ c.dstCap.toNat ∨ c.srcLen.toNat + 8 ≤ c.dstCap.toNat) →
    ∃ t, exec .blockEnc s = .next t
      ∧ Succeeded c { out := e.frame, consumed := c.srcLen.toNat, blocks := 1, xblocks := if e.info.xform then 1 else 0,
                      valmis := e.valmis, last := some e.info } s t

/-- BLOCK_DEC completes with the block of the first frame, whatever bytes follow it (R187, R189). -/
def Obligations.BlockDecCompletes : Prop :=
  ∀ (s : State) (c : Latched) (Blk : List Byte) (used : Nat) (f : FrameInfo), Memory.wf s.mem → Flying s .blockDec c →
    WindowsInMemory Config.params c → blockDec Config.params.maxBlock (s.source c) 0 = .ok (Blk, used, f) →
    Blk.length ≤ c.dstCap.toNat →
    ∃ t, exec .blockDec s = .next t
      ∧ Succeeded c { out := Blk, consumed := used, blocks := 1, xblocks := if f.xform then 1 else 0, last := some f } s t

/-- BLOCK_DEC of a frame that block_dec refuses ends with that error and ERR_INFO 0 (R187, R189, R221). -/
def Obligations.BlockDecReportsABadFrame : Prop :=
  ∀ (s : State) (c : Latched) (code : ErrCode), Memory.wf s.mem → Flying s .blockDec c →
    WindowsInMemory Config.params c → blockDec Config.params.maxBlock (s.source c) 0 = .error code →
    ∃ t, exec .blockDec s = .next t ∧ Failed c code 0 {} s t

/-- TRANSFORM completes with the container: the frames of the blocks of the partition in order, counted, and the report of
the last (R202, R203). -/
def Obligations.TransformCompletes : Prop :=
  ∀ (s : State) (c : Latched), Memory.wf s.mem → Flying s .transform c → WindowsInMemory Config.params c →
    let encoded := (partitionBlocks (s.source c) c.wholeFile c.blockSize.toNat).map
      (fun Blk => blockEnc Blk c.maxRun.toNat c.selfValidate c.dbg)
    (encoded.flatMap (fun e => e.frame)).length ≤ c.dstCap.toNat →
    ∃ t, exec .transform s = .next t
      ∧ Succeeded c
          { out := encoded.flatMap (fun e => e.frame), consumed := c.srcLen.toNat, blocks := encoded.length,
            xblocks := (encoded.filter (fun e => e.info.xform)).length, valmis := (encoded.map (fun e => e.valmis)).sum,
            last := encoded.getLast?.map (fun e => e.info) } s t

/-- INVERSE completes when every frame decodes and fits: the output is the blocks in frame order and the whole source is
consumed (R205, R208). -/
def Obligations.InverseCompletes : Prop :=
  ∀ (s : State) (c : Latched) (a : InverseAcc), Memory.wf s.mem → Flying s .inverse c →
    WindowsInMemory Config.params c → inverse Config.params.maxBlock (s.source c) c.dstCap.toNat = .done a →
    ∃ t, exec .inverse s = .next t ∧ a.pos = c.srcLen.toNat ∧ a.out.length ≤ c.dstCap.toNat
      ∧ Succeeded c { out := a.out, consumed := c.srcLen.toNat, blocks := a.blocks, xblocks := a.xblocks, last := a.last }
          s t

/-- INVERSE that meets a bad frame, or one that does not fit, ends with that error at the frame's offset and keeps the
blocks of the frames before it (R206, R207, R208). The second clause says what `inverse` gives frame by frame: where the
frames of A decode and fit, a bad or too large frame at the start of B fails with what A gave, and a frame that decodes and
fits is appended (R205). -/
def Obligations.InverseKeepsTheDecodedPrefix : Prop :=
  (∀ (s : State) (c : Latched) (code : ErrCode) (a : InverseAcc), Memory.wf s.mem → Flying s .inverse c →
    WindowsInMemory Config.params c → inverse Config.params.maxBlock (s.source c) c.dstCap.toNat = .failed code a →
    ∃ t, exec .inverse s = .next t ∧ a.out.length ≤ c.dstCap.toNat ∧ Failed c code (u32 a.pos) a.part s t)
  ∧ (∀ maxBlock cap : Nat, inverse maxBlock [] cap = .done {})
  ∧ ∀ (maxBlock cap : Nat) (A B : List Byte) (a : InverseAcc), inverse maxBlock A cap = .done a →
      a.pos = A.length
      ∧ (∀ code, B ≠ [] → blockDec maxBlock B 0 = .error code → inverse maxBlock (A ++ B) cap = .failed code a)
      ∧ ∀ Blk used f, blockDec maxBlock B 0 = .ok (Blk, used, f) →
          (cap < a.out.length + Blk.length → inverse maxBlock (A ++ B) cap = .failed .outputOverflow a)
          ∧ (a.out.length + Blk.length ≤ cap → ∃ b, inverse maxBlock (A ++ B.take used) cap = .done b
              ∧ b.pos = a.pos + used ∧ b.out = a.out ++ Blk ∧ b.blocks = a.blocks + 1
              ∧ b.xblocks = a.xblocks + (if f.xform then 1 else 0) ∧ b.last = some f)

/-- Output that does not fit ends the command with OUTPUT_OVERFLOW and the needed length; INVERSE never takes this path
(R106, R207, R221). -/
def Obligations.OutputOverflowReportsTheNeededLength : Prop :=
  (∀ (i : Instr) (s : State) (c : Latched) (res : Result), Memory.wf s.mem → Flying s i c →
      WindowsInMemory Config.params c → commandResult Config.params i c (s.source c) = .ok res →
      c.dstCap.toNat < res.out.length →
      ∃ t, exec i s = .next t ∧ Failed c .outputOverflow (BitVec.ofNat 32 (min res.out.length 0xFFFFFFFF)) {} s t)
  ∧ (∀ (P : Params) (c : Latched) (src : List Byte) (res : Result),
      commandResult P .inverse c src = .ok res → res.out.length ≤ c.dstCap.toNat)

/-- The frame of every completion: no configuration register, nothing outside the device and no byte outside the
destination window changes, ERR_INFO changes only with ERR, and no command is left in flight (R63, R70, R227). -/
def Obligations.CompletionChangesOnlyResultsAndDestination : Prop :=
  ∀ (i : Instr) (s t : State) (c : Latched), Flying s i c → exec i s = .next t →
    SameConfiguration s.regs t.regs ∧ SameOutside s t ∧ SameOutsideDest c s t ∧ t.inFlight = none
      ∧ statusCmdOvr t.regs.status = statusCmdOvr s.regs.status
      ∧ (statusErr t.regs.status = false → t.regs.errInfo = s.regs.errInfo)

/-- A command's results are a function of its latched configuration and its source bytes (R110): two states that agree on
those get the same result registers, error detail and defined output, whatever else they hold. -/
def Obligations.ResultsDependOnlyOnConfigurationAndSource : Prop :=
  ∀ (i : Instr) (s1 s2 t1 : State) (c : Latched), Memory.wf s1.mem → Memory.wf s2.mem → Flying s1 i c → Flying s2 i c →
    s1.source c = s2.source c → s1.regs.errInfo = s2.regs.errInfo → exec i s1 = .next t1 →
    ∃ t2, exec i s2 = .next t2 ∧ SameResults t1.regs t2.regs ∧ t2.regs.errInfo = t1.regs.errInfo
      ∧ readBytes t2.mem c.dstAddr.toNat t1.regs.resLen.toNat = readBytes t1.mem c.dstAddr.toNat t1.regs.resLen.toNat

/-! Abort and reset -/

/-- The abort action with nothing in flight does nothing; with a command in flight it ends the command ABORTED, with every
result register 0 and every byte of its destination window a draw (R112). -/
def Obligations.AbortEndsTheCommandWithNothing : Prop :=
  ∀ (P : Params) (s : State),
    (s.inFlight = none → abort P s = s)
    ∧ (∀ f, s.inFlight = some f → Memory.wf s.mem →
        let t := abort P s
        t.inFlight = none ∧ statusBusy t.regs.status = false ∧ statusDone t.regs.status = true
        ∧ statusErr t.regs.status = true ∧ statusErrCode t.regs.status = ErrCode.aborted.value ∧ t.regs.errInfo = 0
        ∧ statusValMismatch t.regs.status = false ∧ statusCmdOvr t.regs.status = statusCmdOvr s.regs.status
        ∧ SameResults Regs.reset t.regs ∧ SameConfiguration s.regs t.regs ∧ SameOutside s t
        ∧ SameOutsideDest f.cfg s t
        ∧ ∀ k, k < f.cfg.dstCap.toNat →
            readByte t.mem (f.cfg.dstAddr.toNat + k) = Config.freeByte (s.draws + k))

/-- A CTRL write with SOFT_RESET 0 stores bits 2:0 and, with ABORT 1, then aborts; with SOFT_RESET 1 it is a reset and its
other bits are ignored (R27). -/
def Obligations.CtrlWriteFollowsItsOrder : Prop :=
  ∀ (P : Params) (v : Word) (s : State),
    (v.getLsbD 9 = true → ∃ t, writeReg P .ctrl v s = .next t ∧ t = resetDevice s ∧ t.regs = Regs.reset)
    ∧ (v.getLsbD 9 = false → ∃ t s1, writeReg P .ctrl v s = .next t
        ∧ s1 = { s with regs := { s.regs with ctrl := s1.regs.ctrl } }
        ∧ s1.regs.ctrl.toNat = v.toNat % 8 ∧ t.regs.ctrl = s1.regs.ctrl
        ∧ (v.getLsbD 8 = false → t = s1) ∧ (v.getLsbD 8 = true → t = abort P s1))

/-- A reset puts every register to its reset value and removes the command in flight without a completion; only that
command's destination window changes in data memory, each byte a draw (R250, R251). Both resets do so. -/
def Obligations.ResetForcesTheResetState : Prop :=
  ∀ (s : State) (v : Word), v.getLsbD 9 = true → ∀ (P : Params) (t : State),
    (writeReg P .ctrl v s = .next t ∨ runMove .rstAssert s = .next t) →
    t.regs = Regs.reset ∧ t.inFlight = none ∧ t.irq = false ∧ statusDone t.regs.status = false
    ∧ (s.inFlight = none → t.mem = s.mem)
    ∧ (∀ f, s.inFlight = some f → SameOutsideDest f.cfg s t
        ∧ (Memory.wf s.mem → ∀ k, k < f.cfg.dstCap.toNat →
            readByte t.mem (f.cfg.dstAddr.toNat + k) = Config.freeByte (s.draws + k)))

/-- While RST is asserted, register writes are ignored and register reads return the reset values; RST released leaves the
reset state (R250). -/
def Obligations.RstHoldsTheDeviceInReset : Prop :=
  ∀ (P : Params) (s : State), Inv P s → s.rst = true →
    (∀ off v, accessSupported off 32 = true → portWrite P off 32 v s = .next s)
    ∧ (∀ r : Reg, (portRead P r.offset 32 s).regData = Regs.reset.value P r)
    ∧ (rstRelease s).rst = false ∧ (rstRelease s).regs = Regs.reset ∧ (rstRelease s).inFlight = none
    ∧ (rstRelease s).mem = s.mem

/-- The reset state: every register reads as the reset column of R23 says, no command is in flight, IRQ is 0 (R50). -/
def Obligations.ResetStateReadsAsTheTable : Prop :=
  ∀ (P : Params) (r : Reg),
    (r = .id → State.reset.regs.value P r = 0x42544531#32) ∧ (r = .version → State.reset.regs.value P r = 1#32)
    ∧ (r = .cap → State.reset.regs.value P r = if P.saAccel then 1#32 else 0#32)
    ∧ (r = .maxBlock → (State.reset.regs.value P r).toNat = P.maxBlock)
    ∧ (r = .ctrl → State.reset.regs.value P r = 1#32) ∧ (r = .maxRun → State.reset.regs.value P r = 0xFF#32)
    ∧ (r ≠ .id → r ≠ .version → r ≠ .cap → r ≠ .maxBlock → r ≠ .ctrl → r ≠ .maxRun →
        State.reset.regs.value P r = 0#32)
    ∧ State.reset.inFlight = none ∧ State.reset.irq = false

/-! The register port -/

/-- The writable registers BLOCK_SIZE, MAX_RUN, SRC_ADDR, SRC_LEN, DST_ADDR, DST_CAP and ARG0 store any value as it is, DBG
its bits 1:0, and read it back; nothing else changes, the latched configuration of a command in flight among it (R32, R33,
R37, R38, R41, R264). -/
def Obligations.WritableRegistersReadBack : Prop :=
  ∀ (P : Params) (r : Reg) (v : Word) (s : State), s.rst = false →
    (r = .blockSize ∨ r = .maxRun ∨ r = .srcAddr ∨ r = .srcLen ∨ r = .dstAddr ∨ r = .dstCap ∨ r = .arg0 ∨ r = .dbg) →
    ∃ t, portWrite P r.offset 32 v s = .next t
      ∧ (t.regs.value P r).toNat = (if r = .dbg then v.toNat % 4 else v.toNat)
      ∧ (portRead P r.offset 32 t).regData = t.regs.value P r
      ∧ (∀ r', r' ≠ r → t.regs.value P r' = s.regs.value P r') ∧ t = { s with regs := t.regs }

/-- A write to a read-only register or a reserved offset is ignored, and a reserved offset and CMD read 0 (R24, R26, R39,
R40, R42). -/
def Obligations.ReadOnlyAndReservedOffsetsIgnoreWrites : Prop :=
  ∀ (P : Params) (v : Word) (s : State),
    (∀ r : Reg, (r = .id ∨ r = .version ∨ r = .cap ∨ r = .maxBlock ∨ r = .errInfo ∨ r.isResult = true) →
      portWrite P r.offset 32 v s = .next s)
    ∧ (∀ off, 0x68 ≤ off → off ≤ 0xFC → off % 4 = 0 →
        portWrite P off 32 v s = .next s ∧ portRead P off 32 s = { s with regData := 0 })
    ∧ portRead P 0x1C 32 s = { s with regData := 0 }

/-- A write of `v` to STATUS clears exactly the bits 1..4 that are 1 in `v`, clearing ERR clears ERR_CODE, and clearing DONE
takes IRQ low in the same step; every other bit, BUSY among them, stays (R36). -/
def Obligations.StatusWriteClearsWrittenOnes : Prop :=
  ∀ (P : Params) (v : Word) (s : State), s.rst = false →
    ∃ t, portWrite P 0x20 32 v s = .next t
      ∧ (∀ k, 1 ≤ k → k ≤ 4 → t.regs.status.getLsbD k = (s.regs.status.getLsbD k && !v.getLsbD k))
      ∧ (∀ k, (k = 0 ∨ 5 ≤ k ∧ k ≤ 7 ∨ 16 ≤ k) → t.regs.status.getLsbD k = s.regs.status.getLsbD k)
      ∧ statusErrCode t.regs.status = (if v.getLsbD 2 then errNone else statusErrCode s.regs.status)
      ∧ (v.getLsbD 1 = true → t.irq = false)
      ∧ t = { s with regs := { s.regs with status := t.regs.status } }

/-- A read of a result register while BUSY = 1 returns a free value, a draw per read; at other times it returns the register
(R39, R260). It holds for every value of the draw counter. -/
def Obligations.ResultReadWhileBusyIsADraw : Prop :=
  ∀ (P : Params) (r : Reg) (s : State), r.isResult = true →
    (statusBusy s.regs.status = true →
      portRead P r.offset 32 s = { s with regData := Config.freeWord s.draws, draws := s.draws + 1 })
    ∧ (statusBusy s.regs.status = false → portRead P r.offset 32 s = { s with regData := s.regs.value P r })

/-- A register read has no side effect on the device: registers, data memory, the command in flight and the unit storage
stay, whatever the offset and width (R68). -/
def Obligations.RegisterReadsHaveNoSideEffects : Prop :=
  ∀ (P : Params) (off width : Nat) (s : State),
    let t := portRead P off width s
    t.regs = s.regs ∧ t.mem = s.mem ∧ t.inFlight = s.inFlight ∧ t.units = s.units ∧ t.rst = s.rst ∧ t.irq = s.irq

/-- A register access that is not 32 bits wide at a 4-byte-aligned offset in 0x00..0xFC changes nothing and is recorded as a
host bus fault (R67). No step ever clears a recorded fault. -/
def Obligations.UnsupportedAccessIsABusFault : Prop :=
  (∀ (P : Params) (off width : Nat) (v : Word) (s : State), ¬ (width = 32 ∧ off % 4 = 0 ∧ off ≤ 0xFC) →
      portWrite P off width v s = .next { s with faults := s.faults ++ [.hostBusFault off width] }
      ∧ portRead P off width s = { s with faults := s.faults ++ [.hostBusFault off width] })
  ∧ (∀ s t : State, step s = .next t → ∀ e ∈ s.faults, e ∈ t.faults)

/-- The registers answer at the offsets of the table of R23 and at no other supported offset, and the register block is the
256 bytes at CSR_BASE (R20, R61); that a platform address has 32 bits is the model's choice (log 23). -/
def Obligations.RegistersStandAtTheirOffsets : Prop :=
  ([Reg.id, .version, .cap, .maxBlock, .ctrl, .blockSize, .maxRun, .cmd, .status, .srcAddr, .srcLen, .dstAddr, .dstCap,
      .arg0, .dbg, .errInfo, .resLen, .resPrimary, .resConsumed, .resBlocks, .resXformBlocks, .resValMismatches, .lastMode,
      .lastRawLen, .lastPayloadLen, .lastHeader0].map Reg.offset
    = [0x00, 0x04, 0x08, 0x0C, 0x10, 0x14, 0x18, 0x1C, 0x20, 0x24, 0x28, 0x2C, 0x30, 0x34, 0x38, 0x3C, 0x40, 0x44, 0x48,
        0x4C, 0x50, 0x54, 0x58, 0x5C, 0x60, 0x64])
  ∧ (∀ (off : Nat) (r : Reg), Reg.ofOffset off = some r ↔ off = r.offset)
  ∧ (∀ r : Reg, accessSupported r.offset 32 = true)
  ∧ (∀ (P : Params) (a : Word) (off : Nat), csrOffset P a = some off ↔ off < 256 ∧ a.toNat = P.csrBase.toNat + off)

/-! The host and data memory -/

/-- A host access to a window of the command in flight is a window race: a write to the source window, or a read or write of
the destination window; every other access to data memory goes through (R72, R261). That the access ends the step in the
fault hostWindowRace is the model's reading of R72, which says that the model records the fault (log 9). -/
def Obligations.HostAccessToAWindowIsARace : Prop :=
  ∀ (P : Params) (s : State) (i : Instr) (c : Latched) (a : Nat) (b : Byte), Flying s i c → a < P.memSize →
    let inSrc := c.srcAddr.toNat ≤ a ∧ a < c.srcAddr.toNat + c.srcLen.toNat
    let inDst := c.dstAddr.toNat ≤ a ∧ a < c.dstAddr.toNat + c.dstCap.toNat
    (inSrc ∨ inDst → hostStore P a b s = .fault (.hostWindowRace a))
    ∧ (inDst → hostLoad P a s = .fault (.hostWindowRace a))
    ∧ (¬ inSrc → ¬ inDst → ∃ t, hostStore P a b s = .next t)
    ∧ (¬ inDst → hostLoad P a s = .next { s with memData := readByte s.mem a })

/-- A byte the host stores is read back, every other byte reads as before, and an address at or above MEM_SIZE does not
exist (R60, R68, R71; the fault is the model's choice, log 10). -/
def Obligations.HostStoreThenLoad : Prop :=
  ∀ (P : Params) (s : State) (a : Nat) (b : Byte), Memory.wf s.mem → s.inFlight = none →
    (P.memSize ≤ a → hostStore P a b s = .fault (.hostMemAbsent a) ∧ hostLoad P a s = .fault (.hostMemAbsent a))
    ∧ (a < P.memSize → ∃ t, hostStore P a b s = .next t ∧ readByte t.mem a = b
        ∧ (∀ a', a' ≠ a → readByte t.mem a' = readByte s.mem a') ∧ Memory.wf t.mem
        ∧ t = { s with mem := t.mem } ∧ ∃ u, hostLoad P a t = .next u ∧ u.memData = b)

/-! The pure functions -/

/-- SA lists the indices in strictly rising rotation order, ties by start index; L takes the byte before each, and p is the
rank of index 0; so L is a permutation of the block's bytes and p is below n (R13, R130, R132, R133). -/
def Obligations.BwtSortsTheRotations : Prop :=
  ∀ B : List Byte,
    (rotationOrder B).Perm (List.range B.length)
    ∧ (rotationOrder B).Pairwise (RotBefore B)
    ∧ (bwtFwd B).1 = (rotationOrder B).map (fun i => B.getD ((i + B.length - 1) % B.length) 0)
    ∧ (B = [] → (bwtFwd B).2 = 0)
    ∧ (B ≠ [] → (bwtFwd B).2 < B.length ∧ (rotationOrder B)[(bwtFwd B).2]? = some 0)
    ∧ (bwtFwd B).1.Perm B

/-- LF is a permutation of 0..n-1 for every L, so the inverse gives n bytes for every L and every p below n (R135). -/
def Obligations.LfIsAPermutation : Prop :=
  ∀ (L : List Byte) (p : Nat),
    ((List.range L.length).map (lfStep L (cumTable L) (rankTable L))).Perm (List.range L.length)
    ∧ (p < L.length → ∃ B, bwtInv L p = some B ∧ B.length = L.length)

/-- The forward and inverse transforms are mutual inverses on every block (R135). -/
def Obligations.BwtInverseUndoesTheForwardTransform : Prop :=
  ∀ B : List Byte, bwtInv (bwtFwd B).1 (bwtFwd B).2 = some B

/-- MTF decode undoes encode and encode undoes decode; a repeated byte gives that byte and then zeros; an index is 0 exactly
where its byte equals the one before it, or is a 0 in first place (R154). -/
def Obligations.MtfCodersUndoEachOther : Prop :=
  (∀ X : List Byte, mtfDec (mtfEnc X) = X ∧ mtfEnc (mtfDec X) = X ∧ (mtfEnc X).length = X.length)
  ∧ (∀ (v : Byte) (k : Nat), mtfEnc (List.replicate (k + 1) v) = v :: List.replicate k 0)
  ∧ (∀ k : Nat, mtfEnc (List.replicate k 0) = List.replicate k 0)
  ∧ (∀ (X : List Byte) (t : Nat), t < X.length →
      ((mtfEnc X).getD t 0 = 0 ↔ X.getD t 0 = if t = 0 then 0 else X.getD (t - 1) 0))

/-- The streaming FSM and the greedy encoder give equal pairs for every input and cap (R166). -/
def Obligations.RleFsmIsTheGreedyEncoder : Prop :=
  ∀ (X : List Byte) (m : Nat), rleEnc X m = rleGreedy X m

/-- RLE decoding gives back what was encoded for every cap in 1..255, and every emitted run is between 1 and the cap
(R168, R170). A maximal stretch of r equal values is coded as r / m pairs of the cap and one of the rest, if any, and two
consecutive pairs have the same value only if the first has the cap (R167). -/
def Obligations.RleDecodesWhatItEncodes : Prop :=
  ∀ (X : List Byte) (m : Nat), 1 ≤ m → m ≤ 255 →
    rleDec (ser (rleEnc X m)) = .ok X ∧ (∀ p ∈ rleEnc X m, 1 ≤ p.2 ∧ p.2 ≤ m)
    ∧ ((rleEnc X m).map (fun p => p.2)).sum = X.length
    ∧ (ser (rleEnc X m)).length = 2 * (rleEnc X m).length ∧ (ser (rleEnc X m) = [] ↔ X = [])
    ∧ (∀ k p q, (rleEnc X m)[k]? = some p → (rleEnc X m)[k + 1]? = some q → p.1 = q.1 → p.2 = m)
    ∧ ∀ (A B : List Byte) (v : Byte) (r : Nat), X = A ++ List.replicate r v ++ B → 1 ≤ r → A.getLast? ≠ some v →
        B.head? ≠ some v →
        rleEnc X m = rleEnc A m ++ List.replicate (r / m) (v, m) ++ (if r % m = 0 then [] else [(v, r % m)]) ++ rleEnc B m

/-- The frame checks come in the order of R187 and R225: header truncation, then for RAW its length, for XFORM odd length, length, zero
run, block size, primary index. -/
def Obligations.FrameChecksComeInOrder : Prop :=
  (∀ (maxBlock : Nat) (S : List Byte), S.length < 8 → blockDec maxBlock S 0 = .error .truncatedContainer)
  ∧ ∀ (maxBlock : Nat) (h0 h1 : Word) (rest : List Byte),
    let S := be32 h0 ++ be32 h1 ++ rest
    let P := rest.take h1.toNat
    let zeroRun := ∃ j, 2 * j + 1 < P.length ∧ P.getD (2 * j + 1) 0 = 0
    (h0 = 0xFFFFFFFF#32 →
      (rest.length < h1.toNat → blockDec maxBlock S 0 = .error .truncatedContainer)
      ∧ (h1.toNat ≤ rest.length → blockDec maxBlock S 0
          = .ok (P, 8 + h1.toNat, { xform := false, rawLen := h1.toNat, payloadLen := h1.toNat, header0 := h0.toNat })))
    ∧ (h0 ≠ 0xFFFFFFFF#32 →
      (h1.toNat % 2 = 1 → blockDec maxBlock S 0 = .error .corruptPayload)
      ∧ (h1.toNat % 2 = 0 → rest.length < h1.toNat → blockDec maxBlock S 0 = .error .truncatedContainer)
      ∧ (h1.toNat % 2 = 0 → h1.toNat ≤ rest.length →
        (zeroRun → blockDec maxBlock S 0 = .error .corruptPayload)
        ∧ (¬ zeroRun → maxBlock < sumRuns P → blockDec maxBlock S 0 = .error .blockTooLarge)
        ∧ (¬ zeroRun → sumRuns P ≤ maxBlock → 0 < sumRuns P → sumRuns P ≤ h0.toNat →
            blockDec maxBlock S 0 = .error .corruptPrimaryIndex)
        ∧ (¬ zeroRun → sumRuns P ≤ maxBlock → (sumRuns P = 0 ∨ h0.toNat < sumRuns P) →
            ∃ Blk, bwtInv (mtfDec (expandPairs P)) h0.toNat = some Blk ∧ Blk.length = sumRuns P
              ∧ blockDec maxBlock S 0 = .ok (Blk, 8 + h1.toNat,
                  { xform := true, rawLen := sumRuns P, payloadLen := h1.toNat, header0 := h0.toNat }))))

/-- What block_enc returns, and passthrough. The candidate is the RLE pairs of the MTF indices of the last column, with the
fault injection of DBG (R181, R182); the frame is XFORM exactly when the candidate is shorter than the block and, with
self-validation on, decodes to it, and a mismatch is reported exactly when a shorter candidate does not (R183, R184, R185).
So an XFORM payload is strictly shorter than its block, a frame is at most 8 bytes longer than its block, a RAW frame
exactly, and an empty block is framed RAW (R186). -/
def Obligations.PassthroughBoundsTheFrame : Prop :=
  ∀ (Blk : List Byte) (m : Nat) (sv : Bool) (dbg : Word),
    let e := blockEnc Blk m sv dbg
    let p := (bwtFwd Blk).2
    let M := mtfEnc (bwtFwd Blk).1
    let pairs := rleGreedy (if dbgInjMtf dbg then M.modifyHead (fun x => x ^^^ 0x01#8) else M) m
    let payload := ser (if dbgInjRle dbg then pairs.modifyHead (fun q => (q.1 ^^^ 0x01#8, q.2)) else pairs)
    let valid := ∃ Y, rleDec payload = .ok Y ∧ bwtInv (mtfDec Y) p = some Blk
    (payload.length < Blk.length ∧ (sv = true → valid) →
      e = { frame := be32 (u32 p) ++ be32 (u32 payload.length) ++ payload, valmis := 0,
            info := { xform := true, rawLen := Blk.length, payloadLen := payload.length, header0 := p } })
    ∧ (¬ (payload.length < Blk.length ∧ (sv = true → valid)) →
      e.frame = be32 0xFFFFFFFF#32 ++ be32 (u32 Blk.length) ++ Blk
      ∧ e.info = { xform := false, rawLen := Blk.length, payloadLen := Blk.length, header0 := 0xFFFFFFFF })
    ∧ (e.valmis = 0 ∨ e.valmis = 1)
    ∧ (e.valmis = 1 ↔ payload.length < Blk.length ∧ sv = true ∧ ¬ valid)
    ∧ e.frame.length ≤ Blk.length + 8
    ∧ (e.info.xform = true → e.info.payloadLen < Blk.length ∧ e.frame.length = e.info.payloadLen + 8 ∧ e.valmis = 0)
    ∧ (e.info.xform = false → e.frame = be32 0xFFFFFFFF#32 ++ be32 (u32 Blk.length) ++ Blk)
    ∧ (Blk = [] → e.frame = [0xFF, 0xFF, 0xFF, 0xFF, 0, 0, 0, 0])

/-- Round trip of one block: with injection off, or with self-validation on whatever is injected, block_dec of the frame
gives the block back, whatever bytes follow the frame (R186). -/
def Obligations.BlockRoundTrip : Prop :=
  ∀ (maxBlock : Nat) (Blk rest : List Byte) (m : Nat) (sv : Bool) (dbg : Word),
    Blk.length ≤ maxBlock → maxBlock ≤ 0xFFFFFFFF → 1 ≤ m → m ≤ 255 → (sv = true ∨ InjectionOff dbg) →
    let e := blockEnc Blk m sv dbg
    blockDec maxBlock (e.frame ++ rest) 0 = .ok (Blk, e.frame.length, e.info)

/-- The block partition loses nothing: the blocks joined are the source, none is empty, and in fixed mode every block but
the last has the block size (R201). -/
def Obligations.PartitionCoversTheSource : Prop :=
  ∀ (S : List Byte) (wholeFile : Bool) (bs : Nat), (wholeFile = true ∨ 1 ≤ bs) →
    let blocks := partitionBlocks S wholeFile bs
    blocks.flatten = S ∧ (∀ Blk ∈ blocks, Blk ≠ []) ∧ (S = [] → blocks = [])
    ∧ (wholeFile = true → S ≠ [] → blocks = [S])
    ∧ (wholeFile = false → (∀ Blk ∈ blocks, Blk.length ≤ bs) ∧ ∀ Blk ∈ blocks.dropLast, Blk.length = bs)

/-- In fixed mode the container of two sources joined at a block boundary is their containers joined (R204). -/
def Obligations.TransformOfJoinedSources : Prop :=
  ∀ (S1 S2 : List Byte) (c : Latched), c.wholeFile = false → 1 ≤ c.blockSize.toNat →
    S1.length % c.blockSize.toNat = 0 →
    (transform (S1 ++ S2) c).out = (transform S1 c).out ++ (transform S2 c).out
    ∧ (transform (S1 ++ S2) c).blocks = (transform S1 c).blocks + (transform S2 c).blocks

/-- The round-trip law of the device (R210): INVERSE of what TRANSFORM made gives the source back, with as many frames,
for every blocking and cap that the issue checks admit, with injection off or self-validation on. -/
def Obligations.ContainerRoundTrip : Prop :=
  ∀ (P : Params) (c : Latched) (S : List Byte) (cap : Nat), issueCheck P .transform c = none →
    S.length = c.srcLen.toNat → S.length ≤ cap → (c.selfValidate = true ∨ InjectionOff c.dbg) →
    ∃ a, inverse P.maxBlock (transform S c).out cap = .done a ∧ a.out = S ∧ a.blocks = (transform S c).blocks
      ∧ a.pos = (transform S c).out.length

/-- A container that TRANSFORM made of S1 ++ S2, the frames of S1 ending at a block boundary: cut at that boundary it
decodes without error to S1; cut inside the frame after it, INVERSE fails with TRUNCATED_CONTAINER at that frame's offset
with S1 as output; and with room for S1 but not for the next block it fails with OUTPUT_OVERFLOW there (R206, R207, R209).
A frame cut short anywhere is refused as truncated. -/
def Obligations.TruncationIsFoundInsideAFrame : Prop :=
  (∀ (P : Params) (c : Latched) (S1 S2 : List Byte) (cap : Nat), issueCheck P .transform c = none →
      (c.wholeFile = false ∧ S1.length % c.blockSize.toNat = 0 ∨ c.wholeFile = true ∧ (S1 = [] ∨ S2 = [])) →
      (S1 ++ S2).length = c.srcLen.toNat → S1.length ≤ cap → (c.selfValidate = true ∨ InjectionOff c.dbg) →
      let container := (transform (S1 ++ S2) c).out
      let first := transform S1 c
      let next := if c.wholeFile then S2 else S2.take c.blockSize.toNat
      let frame := (blockEnc next c.maxRun.toNat c.selfValidate c.dbg).frame
      ∃ a : InverseAcc, a.out = S1 ∧ a.pos = first.out.length ∧ a.blocks = first.blocks ∧ a.xblocks = first.xblocks
        ∧ a.last = first.last
        ∧ inverse P.maxBlock (container.take first.out.length) cap = .done a
        ∧ (S2 ≠ [] → ∀ k, 0 < k → k < frame.length →
            inverse P.maxBlock (container.take (first.out.length + k)) cap = .failed .truncatedContainer a)
        ∧ (S2 ≠ [] → cap < S1.length + next.length → inverse P.maxBlock container cap = .failed .outputOverflow a))
  ∧ (∀ (maxBlock : Nat) (Blk : List Byte) (m : Nat) (sv : Bool) (dbg : Word) (k : Nat), Blk.length ≤ 0xFFFFFFFF →
      k < (blockEnc Blk m sv dbg).frame.length →
      blockDec maxBlock ((blockEnc Blk m sv dbg).frame.take k) 0 = .error .truncatedContainer)
end

