-- ==== Sys2Proof/Laws/Bwt.lean ====
section
/-! SUPPORT. Lengths of the BWT unit's results, and what each entry of the tables C and rank counts (R134). -/

namespace Sys2Proof.Machine

@[simp] theorem rot_length (B : List Byte) (i : Nat) : (rot B i).length = B.length := by simp [rot]

theorem rotationOrder_perm (B : List Byte) : (rotationOrder B).Perm (List.range B.length) := List.perm_insertionSort _ _

@[simp] theorem bwtFwd_length (B : List Byte) : (bwtFwd B).1.length = B.length := by
  unfold bwtFwd
  split
  · rename_i h; simp [h]
  · simp [rotationOrder, List.length_insertionSort]

@[simp] theorem lfWalk_length (L : List Byte) (cum rank : List Nat) (k idx : Nat) (acc : List Byte) :
    (lfWalk L cum rank k idx acc).1.length = k + acc.length := by
  induction k generalizing idx acc with
  | zero => simp [lfWalk]
  | succ k ih => rw [lfWalk, ih]; simp; omega

theorem sumsBefore_getD (xs : List Nat) (acc c : Nat) (h : c < xs.length) :
    (sumsBefore acc xs).getD c 0 = acc + (xs.take c).sum := by
  induction xs generalizing acc c with
  | nil => simp at h
  | cons x xs ih =>
    cases c with
    | zero => simp [sumsBefore]
    | succ c => rw [sumsBefore, List.getD_cons_succ, ih _ _ (by simpa using h)]; simp; omega

theorem countP_lt_succ (L : List Byte) (c : Nat) :
    L.countP (fun b => decide (b.toNat < c + 1))
      = L.countP (fun b => decide (b.toNat < c)) + L.countP (fun b => b.toNat == c) := by
  induction L with
  | nil => rfl
  | cons b L ih =>
    simp only [List.countP_cons, ih]
    rcases Nat.lt_trichotomy b.toNat c with h | h | h
    · simp [h, Nat.lt_succ_of_lt h, Nat.ne_of_lt h]; omega
    · simp [h]; omega
    · simp [Nat.not_lt.2 (Nat.le_of_lt h), Nat.not_lt.2 h, Nat.ne_of_gt h]

theorem countsTable_take_sum (L : List Byte) (c : Nat) (hc : c ≤ 256) :
    ((countsTable L).take c).sum = L.countP (fun b => decide (b.toNat < c)) := by
  unfold countsTable
  rw [← List.map_take, List.take_range, Nat.min_eq_left hc]
  clear hc
  induction c with
  | zero => simp
  | succ c ih => rw [List.range_succ, List.map_append, List.sum_append, ih, countP_lt_succ]; simp

/-- C[b] is the number of bytes of L below b (R134). -/
theorem cumTable_getD (L : List Byte) (b : Byte) :
    (cumTable L).getD b.toNat 0 = L.countP (fun x => decide (x.toNat < b.toNat)) := by
  unfold cumTable
  rw [sumsBefore_getD _ _ _ (by simp [countsTable]; exact b.isLt),
    countsTable_take_sum _ _ (Nat.le_of_lt b.isLt), Nat.zero_add]

/-- rank[i] is the count of L[i] in L[0..i] (R134). -/
theorem rankTable_getD (L : List Byte) (i : Nat) (h : i < L.length) :
    (rankTable L).getD i 0 = (L.take (i + 1)).count (L.getD i 0) := by
  simp [rankTable, List.getD, List.getElem?_range h]

end Sys2Proof.Machine
end

