-- ==== Sys2Proof/Laws/Flags.lean ====
section
/-! SUPPORT. Each field of STATUS, CTRL and DBG after each update of it. -/

namespace Sys2Proof.Machine

theorem getLsbD_setBit (w : Word) (k : Nat) (b : Bool) (j : Nat) (hk : k < 32) :
    (setBit w k b).getLsbD j = if j = k then b else w.getLsbD j := by
  unfold setBit
  by_cases hj : j < 32
  · cases b <;> simp [hj] <;> by_cases h : j = k <;> simp_all
  · have h1 : j ≠ k := by omega
    have h2 : w.getLsbD j = false := BitVec.getLsbD_of_ge _ _ (by omega)
    cases b <;> simp [hj, h1, h2]
    omega

theorem getLsbD_errCodeMask_low (j : Nat) (hj : j < 8) : (4294902015#32).getLsbD j = true := by
  have : ∀ j : Fin 8, (4294902015#32).getLsbD j.val = true := by decide
  exact this ⟨j, hj⟩

theorem getLsbD_errCodeMask_field (j : Nat) (hj : j < 8) : (4294902015#32).getLsbD (8 + j) = false := by
  have : ∀ j : Fin 8, (4294902015#32).getLsbD (8 + j.val) = false := by decide
  exact this ⟨j, hj⟩

theorem getLsbD_withErrCode_low (w : Word) (c : BitVec 8) (j : Nat) (hj : j < 8) :
    (withErrCode w c).getLsbD j = w.getLsbD j := by
  simp only [withErrCode, BitVec.getLsbD_or, BitVec.getLsbD_and, getLsbD_errCodeMask_low j hj,
    Bool.and_true, BitVec.getLsbD_shiftLeft, hj, decide_true, Bool.not_true, Bool.and_false, Bool.false_and,
    Bool.or_false]

theorem statusErrCode_withErrCode (w : Word) (c : BitVec 8) : statusErrCode (withErrCode w c) = c := by
  unfold statusErrCode
  ext j hj
  have h1 : 8 + j < 32 := by omega
  have h2 : ¬ 8 + j < 8 := by omega
  simp only [withErrCode, BitVec.getElem_extractLsb', BitVec.getLsbD_or, BitVec.getLsbD_and,
    getLsbD_errCodeMask_field j hj, Bool.and_false, Bool.false_or, BitVec.getLsbD_shiftLeft, h1, h2, decide_true,
    decide_false, Bool.not_false, Bool.and_true, Bool.true_and, Nat.add_sub_cancel_left]
  simp [hj]
  omega

theorem statusErrCode_setBit (w : Word) (k : Nat) (b : Bool) (hk : k < 8) :
    statusErrCode (setBit w k b) = statusErrCode w := by
  unfold statusErrCode
  ext j hj
  simp only [BitVec.getElem_extractLsb']
  rw [getLsbD_setBit _ _ _ _ (by omega), if_neg (by omega)]

theorem getLsbD_withErrCode_high (w : Word) (c : BitVec 8) (j : Nat) (hj : 16 ≤ j) :
    (withErrCode w c).getLsbD j = w.getLsbD j := by
  by_cases h : j < 32
  · have hm : (4294902015#32).getLsbD j = true := by
      have : ∀ j : Fin 32, 16 ≤ j.val → (4294902015#32).getLsbD j.val = true := by decide
      exact this ⟨j, h⟩ hj
    have hc : c.getLsbD (j - 8) = false := BitVec.getLsbD_of_ge _ _ (by omega)
    simp only [withErrCode, BitVec.getLsbD_or, BitVec.getLsbD_and, hm, Bool.and_true, BitVec.getLsbD_shiftLeft,
      BitVec.zeroExtend_eq_setWidth, BitVec.getLsbD_setWidth, hc, Bool.and_false, Bool.or_false]
  · rw [BitVec.getLsbD_of_ge _ _ (by omega), BitVec.getLsbD_of_ge _ _ (by omega)]

/-- The reserved bits 7:5 and 31:16 of STATUS are 0, bit by bit (R35). -/
theorem statusReserved_iff (w : Word) :
    w &&& 0xFFFF00E0#32 = 0#32 ↔ ∀ j, (5 ≤ j ∧ j ≤ 7 ∨ 16 ≤ j) → w.getLsbD j = false := by
  have hm : ∀ j : Fin 32, (4294901984#32).getLsbD j.val = decide (5 ≤ j.val ∧ j.val ≤ 7 ∨ 16 ≤ j.val) := by decide
  constructor
  · intro h j hj
    by_cases h32 : j < 32
    · have h1 := congrArg (fun v => v.getLsbD j) h
      have h2 := hm ⟨j, h32⟩
      simp only [BitVec.getLsbD_and, h2, hj, decide_true, Bool.and_true] at h1
      simpa using h1
    · exact BitVec.getLsbD_of_ge _ _ (by omega)
  · intro h
    ext j hj
    have h2 := hm ⟨j, hj⟩
    rw [BitVec.getElem_and, BitVec.getElem_zero, ← BitVec.getLsbD_eq_getElem, ← BitVec.getLsbD_eq_getElem, h2]
    by_cases hc : 5 ≤ j ∧ j ≤ 7 ∨ 16 ≤ j
    · rw [h j hc]; rfl
    · simp [hc]

theorem statusReserved_setBit {w : Word} (k : Nat) (b : Bool) (hk : k < 5) (h : w &&& 0xFFFF00E0#32 = 0#32) :
    setBit w k b &&& 0xFFFF00E0#32 = 0#32 := by
  rw [statusReserved_iff] at *
  intro j hj
  rw [getLsbD_setBit _ _ _ _ (by omega), if_neg (by omega)]
  exact h j hj

theorem statusReserved_withErrCode {w : Word} (c : BitVec 8) (h : w &&& 0xFFFF00E0#32 = 0#32) :
    withErrCode w c &&& 0xFFFF00E0#32 = 0#32 := by
  rw [statusReserved_iff] at *
  intro j hj
  rcases Nat.lt_or_ge j 8 with h8 | h8
  · rw [getLsbD_withErrCode_low _ _ _ h8]; exact h j hj
  · rw [getLsbD_withErrCode_high _ _ _ (by omega)]; exact h j hj

/-! Bits of the successive values of STATUS -/

theorem getLsbD_statusIssue (w : Word) (j : Nat) (hj : j < 8) :
    (statusIssue w).getLsbD j = if j = 1 ∨ j = 2 ∨ j = 3 then false else w.getLsbD j := by
  unfold statusIssue
  rw [getLsbD_withErrCode_low _ _ _ hj, getLsbD_setBit _ _ _ _ (by omega), getLsbD_setBit _ _ _ _ (by omega),
    getLsbD_setBit _ _ _ _ (by omega)]
  split_ifs <;> simp_all

theorem getLsbD_statusSuccess (b : Bool) (w : Word) (j : Nat) :
    (statusSuccess b w).getLsbD j = if j = 1 then true else if j = 0 then false else if j = 3 then b else w.getLsbD j := by
  unfold statusSuccess
  rw [getLsbD_setBit _ _ _ _ (by omega), getLsbD_setBit _ _ _ _ (by omega), getLsbD_setBit _ _ _ _ (by omega)]

theorem getLsbD_statusError (c : ErrCode) (w : Word) (j : Nat) (hj : j < 8) :
    (statusError c w).getLsbD j
      = if j = 0 then false else if j = 1 ∨ j = 2 then true else if j = 3 then false else w.getLsbD j := by
  unfold statusError
  rw [getLsbD_setBit _ _ _ _ (by omega), getLsbD_setBit _ _ _ _ (by omega), getLsbD_setBit _ _ _ _ (by omega),
    getLsbD_setBit _ _ _ _ (by omega), getLsbD_withErrCode_low _ _ _ hj]
  split_ifs <;> simp_all

theorem getLsbD_statusIssueError (c : ErrCode) (w : Word) (j : Nat) (hj : j < 8) :
    (statusIssueError c w).getLsbD j = if j = 1 ∨ j = 2 then true else w.getLsbD j := by
  unfold statusIssueError
  rw [getLsbD_setBit _ _ _ _ (by omega), getLsbD_setBit _ _ _ _ (by omega), getLsbD_withErrCode_low _ _ _ hj]
  split_ifs <;> simp_all

theorem getLsbD_statusWrite_low (v w : Word) (j : Nat) (hj : j < 8) :
    (statusWrite v w).getLsbD j = (w.getLsbD j && !(decide (1 ≤ j ∧ j ≤ 4) && v.getLsbD j)) := by
  have hm : ∀ j : Fin 8, (0x0000001E#32).getLsbD j.val = decide (1 ≤ j.val ∧ j.val ≤ 4) := by decide
  have h := hm ⟨j, hj⟩
  have h32 : j < 32 := by omega
  have key : (w &&& ~~~(v &&& 0x0000001E#32)).getLsbD j = (w.getLsbD j && !(decide (1 ≤ j ∧ j ≤ 4) && v.getLsbD j)) := by
    rw [BitVec.getLsbD_and, BitVec.getLsbD_not, BitVec.getLsbD_and, h, Bool.and_comm (v.getLsbD j)]
    simp [h32]
  unfold statusWrite
  simp only
  split
  · rw [getLsbD_withErrCode_low _ _ _ hj, key]
  · exact key

theorem getLsbD_statusWrite_high (v w : Word) (j : Nat) (hj : 16 ≤ j) :
    (statusWrite v w).getLsbD j = w.getLsbD j := by
  by_cases h32 : j < 32
  · have hm : ∀ j : Fin 32, 16 ≤ j.val → (0x0000001E#32).getLsbD j.val = false := by decide
    have h := hm ⟨j, h32⟩ hj
    have key : (w &&& ~~~(v &&& 0x0000001E#32)).getLsbD j = w.getLsbD j := by
      rw [BitVec.getLsbD_and, BitVec.getLsbD_not, BitVec.getLsbD_and, h]
      simp [h32]
    unfold statusWrite
    simp only
    split
    · rw [getLsbD_withErrCode_high _ _ _ hj, key]
    · exact key
  · rw [BitVec.getLsbD_of_ge _ _ (by omega), BitVec.getLsbD_of_ge _ _ (by omega)]

theorem statusErrCode_statusWrite (v w : Word) :
    statusErrCode (statusWrite v w) = if v.getLsbD 2 then errNone else statusErrCode w := by
  unfold statusWrite
  simp only
  split
  · exact statusErrCode_withErrCode _ _
  · unfold statusErrCode
    ext j hj
    have hm : ∀ j : Fin 8, (0x0000001E#32).getLsbD (8 + j.val) = false := by decide
    have h := hm ⟨j, hj⟩
    have h32 : 8 + j < 32 := by omega
    rw [BitVec.getElem_extractLsb', BitVec.getElem_extractLsb', BitVec.getLsbD_and, BitVec.getLsbD_not,
      BitVec.getLsbD_and, h]
    simp [h32]

@[simp] theorem statusErrCode_statusIssue (w : Word) : statusErrCode (statusIssue w) = errNone :=
  statusErrCode_withErrCode _ _

@[simp] theorem statusErrCode_statusSuccess (b : Bool) (w : Word) :
    statusErrCode (statusSuccess b w) = statusErrCode w := by
  unfold statusSuccess
  rw [statusErrCode_setBit _ _ _ (by omega), statusErrCode_setBit _ _ _ (by omega), statusErrCode_setBit _ _ _ (by omega)]

@[simp] theorem statusErrCode_statusError (c : ErrCode) (w : Word) : statusErrCode (statusError c w) = c.value := by
  unfold statusError
  rw [statusErrCode_setBit _ _ _ (by omega), statusErrCode_setBit _ _ _ (by omega), statusErrCode_setBit _ _ _ (by omega),
    statusErrCode_setBit _ _ _ (by omega), statusErrCode_withErrCode]

@[simp] theorem statusErrCode_statusIssueError (c : ErrCode) (w : Word) :
    statusErrCode (statusIssueError c w) = c.value := by
  unfold statusIssueError
  rw [statusErrCode_setBit _ _ _ (by omega), statusErrCode_setBit _ _ _ (by omega), statusErrCode_withErrCode]

theorem statusReserved_statusIssue {w : Word} (h : w &&& 0xFFFF00E0#32 = 0#32) :
    statusIssue w &&& 0xFFFF00E0#32 = 0#32 :=
  statusReserved_withErrCode _ (statusReserved_setBit 3 _ (by omega) (statusReserved_setBit 2 _ (by omega)
    (statusReserved_setBit 1 _ (by omega) h)))

theorem statusReserved_statusSuccess {w : Word} (b : Bool) (h : w &&& 0xFFFF00E0#32 = 0#32) :
    statusSuccess b w &&& 0xFFFF00E0#32 = 0#32 :=
  statusReserved_setBit 1 _ (by omega) (statusReserved_setBit 0 _ (by omega) (statusReserved_setBit 3 _ (by omega) h))

theorem statusReserved_statusError {w : Word} (c : ErrCode) (h : w &&& 0xFFFF00E0#32 = 0#32) :
    statusError c w &&& 0xFFFF00E0#32 = 0#32 :=
  statusReserved_setBit 0 _ (by omega) (statusReserved_setBit 1 _ (by omega) (statusReserved_setBit 2 _ (by omega)
    (statusReserved_setBit 3 _ (by omega) (statusReserved_withErrCode _ h))))

theorem statusReserved_statusIssueError {w : Word} (c : ErrCode) (h : w &&& 0xFFFF00E0#32 = 0#32) :
    statusIssueError c w &&& 0xFFFF00E0#32 = 0#32 :=
  statusReserved_setBit 1 _ (by omega) (statusReserved_setBit 2 _ (by omega) (statusReserved_withErrCode _ h))

theorem statusReserved_statusWrite (v : Word) {w : Word} (h : w &&& 0xFFFF00E0#32 = 0#32) :
    statusWrite v w &&& 0xFFFF00E0#32 = 0#32 := by
  rw [statusReserved_iff] at *
  intro j hj
  rcases Nat.lt_or_ge j 8 with h8 | h8
  · rw [getLsbD_statusWrite_low _ _ _ h8, h j hj, Bool.false_and]
  · rw [getLsbD_statusWrite_high _ _ _ (by omega)]; exact h j hj

theorem ErrCode.value_le (c : ErrCode) : c.value.toNat ≤ 0x0A := by cases c <;> decide

theorem ctrlStored_ctrlStored (w : Word) : ctrlStored (ctrlStored w) = ctrlStored w := by
  unfold ctrlStored; rw [BitVec.and_assoc, BitVec.and_self]

theorem dbgStored_dbgStored (w : Word) : dbgStored (dbgStored w) = dbgStored w := by
  unfold dbgStored; rw [BitVec.and_assoc, BitVec.and_self]

theorem ctrlStored_toNat (w : Word) : (ctrlStored w).toNat = w.toNat % 8 := by
  unfold ctrlStored; rw [BitVec.toNat_and]; exact Nat.and_two_pow_sub_one_eq_mod _ 3

theorem dbgStored_toNat (w : Word) : (dbgStored w).toNat = w.toNat % 4 := by
  unfold dbgStored; rw [BitVec.toNat_and]; exact Nat.and_two_pow_sub_one_eq_mod _ 2

end Sys2Proof.Machine
end

