-- ==== Sys2Proof/Laws/Memory.lean ====
section
/-! SUPPORT. Data memory: a read after a write to the same place gives what was written, a write leaves every other place
alone, and every operation keeps the canonical form. -/

namespace Sys2Proof.Machine

theorem readByte_writeByte_of_ne {m : Memory} {a a' : Nat} {b : Byte} (h : a' ≠ a) :
    readByte (writeByte m a b) a' = readByte m a' := by
  induction m with
  | nil => unfold writeByte; split <;> simp [readByte, Ne.symm h]
  | cons x m ih =>
    obtain ⟨k, c⟩ := x
    unfold writeByte
    split
    · split <;> simp [readByte, Ne.symm h]
    · split
      · rename_i hk; subst hk; split <;> simp [readByte, Ne.symm h]
      · simp [readByte, ih]

/-- Every entry of a written memory is an old entry or the written one. -/
theorem mem_of_mem_writeByte {m : Memory} {a : Nat} {b : Byte} {x : Host.Cell} (h : x ∈ writeByte m a b) :
    x ∈ m ∨ (x = (a, b) ∧ b ≠ unlistedByte a) := by
  induction m with
  | nil => unfold writeByte at h; split at h <;> simp_all
  | cons y m ih =>
    obtain ⟨k, c⟩ := y
    unfold writeByte at h
    split at h
    · split at h <;> simp_all; tauto
    · split at h
      · split at h <;> simp_all; tauto
      · rcases List.mem_cons.1 h with h | h
        · exact .inl (h ▸ List.mem_cons_self)
        · exact (ih h).imp (List.mem_cons_of_mem _) id

theorem readByte_of_all_gt {m : Memory} {a : Nat} (h : ∀ x ∈ m, a < x.1) : readByte m a = unlistedByte a := by
  induction m with
  | nil => rfl
  | cons y m ih =>
    obtain ⟨k, c⟩ := y
    have hk : a < k := h (k, c) List.mem_cons_self
    rw [readByte, if_neg (by omega), ih (fun x hx => h x (List.mem_cons_of_mem _ hx))]

theorem Memory.wf_cons {x : Host.Cell} {m : Memory} (h : Memory.wf (x :: m)) :
    (∀ y ∈ m, x.1 < y.1) ∧ x.2 ≠ unlistedByte x.1 ∧ Memory.wf m :=
  ⟨(List.pairwise_cons.1 h.1).1, h.2 x List.mem_cons_self,
    (List.pairwise_cons.1 h.1).2, fun y hy => h.2 y (List.mem_cons_of_mem _ hy)⟩

theorem readByte_writeByte_same {m : Memory} (hm : Memory.wf m) (a : Nat) (b : Byte) :
    readByte (writeByte m a b) a = b := by
  induction m with
  | nil => unfold writeByte; split <;> simp_all [readByte]
  | cons x m ih =>
    obtain ⟨k, c⟩ := x
    obtain ⟨hlt, -, hm'⟩ := Memory.wf_cons hm
    unfold writeByte
    split
    · rename_i hak
      split
      · rename_i hb
        rw [readByte, if_neg (by omega), readByte_of_all_gt (fun x hx => Nat.lt_trans hak (hlt x hx)), hb]
      · simp [readByte]
    · split
      · rename_i hk
        subst hk
        split
        · rename_i hb; rw [readByte_of_all_gt hlt, hb]
        · simp [readByte]
      · rename_i hk
        rw [readByte, if_neg (Ne.symm hk), ih hm']

theorem writeByte_wf {m : Memory} (hm : Memory.wf m) (a : Nat) (b : Byte) : Memory.wf (writeByte m a b) := by
  induction m with
  | nil => unfold writeByte; split <;> simp_all [Memory.wf]
  | cons x m ih =>
    obtain ⟨k, c⟩ := x
    obtain ⟨hlt, hc, hm'⟩ := Memory.wf_cons hm
    unfold writeByte
    split
    · rename_i hak
      split
      · exact hm
      · rename_i hb
        refine ⟨List.pairwise_cons.2 ⟨fun y hy => ?_, hm.1⟩, fun y hy => ?_⟩
        · rcases List.mem_cons.1 hy with rfl | hy
          · exact hak
          · exact Nat.lt_trans hak (hlt y hy)
        · rcases List.mem_cons.1 hy with rfl | hy
          · exact hb
          · exact hm.2 y hy
    · split
      · rename_i hk
        subst hk
        split
        · exact hm'
        · rename_i hb
          refine ⟨List.pairwise_cons.2 ⟨hlt, hm'.1⟩, fun y hy => ?_⟩
          rcases List.mem_cons.1 hy with rfl | hy
          · exact hb
          · exact hm'.2 y hy
      · rename_i h1 h2
        obtain ⟨hp, hv⟩ := ih hm'
        refine ⟨List.pairwise_cons.2 ⟨fun y hy => ?_, hp⟩, fun y hy => ?_⟩
        · rcases mem_of_mem_writeByte hy with hy | ⟨rfl, -⟩
          · exact hlt y hy
          · show k < a
            omega
        · rcases List.mem_cons.1 hy with rfl | hy
          · exact hc
          · exact hv y hy

theorem readByte_writeBytes_outside {m : Memory} {a a' : Nat} {v : List Byte} (h : a' < a ∨ a + v.length ≤ a') :
    readByte (writeBytes m a v) a' = readByte m a' := by
  induction v generalizing m a with
  | nil => rfl
  | cons b v ih =>
    rw [List.length_cons] at h
    rw [writeBytes, ih (by omega), readByte_writeByte_of_ne (by omega)]

theorem writeBytes_wf {m : Memory} (hm : Memory.wf m) (a : Nat) (v : List Byte) : Memory.wf (writeBytes m a v) := by
  induction v generalizing m a with
  | nil => exact hm
  | cons b v ih => exact ih (writeByte_wf hm a b) (a + 1)

theorem mem_of_mem_writeBytes {m : Memory} {a : Nat} {v : List Byte} {x : Host.Cell} (h : x ∈ writeBytes m a v) :
    x ∈ m ∨ (a ≤ x.1 ∧ x.1 < a + v.length) := by
  induction v generalizing m a with
  | nil => exact .inl h
  | cons b v ih =>
    rw [List.length_cons]
    rcases ih h with h | h
    · rcases mem_of_mem_writeByte h with h | ⟨rfl, -⟩
      · exact .inl h
      · exact .inr ⟨Nat.le_refl _, by show a < _; omega⟩
    · exact .inr (by omega)

/-- Byte `k` of what was written is read back. -/
theorem readByte_writeBytes_inside {m : Memory} (hm : Memory.wf m) (a : Nat) (v : List Byte) (k : Nat)
    (hk : k < v.length) : readByte (writeBytes m a v) (a + k) = v[k] := by
  induction v generalizing m a k with
  | nil => simp at hk
  | cons b v ih =>
    cases k with
    | zero =>
      rw [writeBytes, readByte_writeBytes_outside (by omega)]
      exact readByte_writeByte_same hm a b
    | succ k =>
      have := ih (writeByte_wf hm a b) (a + 1) k (by simpa using hk)
      rw [writeBytes, show a + (k + 1) = a + 1 + k by omega, this]
      rfl

@[simp] theorem readBytes_length (m : Memory) (a n : Nat) : (readBytes m a n).length = n := by simp [readBytes]

theorem readBytes_writeBytes {m : Memory} (hm : Memory.wf m) (a : Nat) (v : List Byte) :
    readBytes (writeBytes m a v) a v.length = v := by
  apply List.ext_getElem (by simp)
  intro k h1 h2
  simp [readBytes, readByte_writeBytes_inside hm a v k h2]

/-- Reading bytes that agree one by one gives the same string. -/
theorem readBytes_congr {m m' : Memory} {a n : Nat} (h : ∀ k, k < n → readByte m' (a + k) = readByte m (a + k)) :
    readBytes m' a n = readBytes m a n := by
  unfold readBytes
  exact List.map_congr_left (fun k hk => h k (List.mem_range.1 hk))

theorem readByte_fillFree_outside {m : Memory} {a a' n d : Nat} (h : a' < a ∨ a + n ≤ a') :
    readByte (fillFree m a n d) a' = readByte m a' := by
  induction n generalizing m a d with
  | zero => rfl
  | succ n ih => rw [fillFree, ih (by omega), readByte_writeByte_of_ne (by omega)]

theorem fillFree_wf {m : Memory} (hm : Memory.wf m) (a n d : Nat) : Memory.wf (fillFree m a n d) := by
  induction n generalizing m a d with
  | zero => exact hm
  | succ n ih => exact ih (writeByte_wf hm a _) (a + 1) (d + 1)

theorem mem_of_mem_fillFree {m : Memory} {a n d : Nat} {x : Host.Cell} (h : x ∈ fillFree m a n d) :
    x ∈ m ∨ (a ≤ x.1 ∧ x.1 < a + n) := by
  induction n generalizing m a d with
  | zero => exact .inl h
  | succ n ih =>
    rcases ih h with h | h
    · rcases mem_of_mem_writeByte h with h | ⟨rfl, -⟩
      · exact .inl h
      · exact .inr ⟨Nat.le_refl _, by show a < _; omega⟩
    · exact .inr (by omega)

/-- Byte `k` of an unspecified range is the draw of its own. -/
theorem readByte_fillFree_inside {m : Memory} (hm : Memory.wf m) (a n d k : Nat) (hk : k < n) :
    readByte (fillFree m a n d) (a + k) = Config.freeByte (d + k) := by
  induction n generalizing m a d k with
  | zero => omega
  | succ n ih =>
    cases k with
    | zero => rw [fillFree, readByte_fillFree_outside (by omega)]; exact readByte_writeByte_same hm a _
    | succ k =>
      have := ih (writeByte_wf hm a (Config.freeByte d)) (a + 1) (d + 1) k (by omega)
      rw [fillFree, show a + (k + 1) = a + 1 + k by omega, this, show d + 1 + k = d + (k + 1) by omega]

theorem reset_mem_wf : Memory.wf State.reset.mem := by decide

end Sys2Proof.Machine
end

