-- ==== Sys2Proof/Laws/State.lean ====
section
/-! SUPPORT. One lemma per field per update of the shared operations, so that no later proof unfolds a record update. -/

namespace Sys2Proof.Machine


/-! Registers: LAST_*, RES_* and issue -/

@[simp] theorem writeLast_ctrl (r : Regs) (last : Option FrameInfo) :
    (r.writeLast last).ctrl = r.ctrl := by cases last <;> rfl
@[simp] theorem writeLast_blockSize (r : Regs) (last : Option FrameInfo) :
    (r.writeLast last).blockSize = r.blockSize := by cases last <;> rfl
@[simp] theorem writeLast_maxRun (r : Regs) (last : Option FrameInfo) :
    (r.writeLast last).maxRun = r.maxRun := by cases last <;> rfl
@[simp] theorem writeLast_status (r : Regs) (last : Option FrameInfo) :
    (r.writeLast last).status = r.status := by cases last <;> rfl
@[simp] theorem writeLast_srcAddr (r : Regs) (last : Option FrameInfo) :
    (r.writeLast last).srcAddr = r.srcAddr := by cases last <;> rfl
@[simp] theorem writeLast_srcLen (r : Regs) (last : Option FrameInfo) :
    (r.writeLast last).srcLen = r.srcLen := by cases last <;> rfl
@[simp] theorem writeLast_dstAddr (r : Regs) (last : Option FrameInfo) :
    (r.writeLast last).dstAddr = r.dstAddr := by cases last <;> rfl
@[simp] theorem writeLast_dstCap (r : Regs) (last : Option FrameInfo) :
    (r.writeLast last).dstCap = r.dstCap := by cases last <;> rfl
@[simp] theorem writeLast_arg0 (r : Regs) (last : Option FrameInfo) :
    (r.writeLast last).arg0 = r.arg0 := by cases last <;> rfl
@[simp] theorem writeLast_dbg (r : Regs) (last : Option FrameInfo) :
    (r.writeLast last).dbg = r.dbg := by cases last <;> rfl
@[simp] theorem writeLast_errInfo (r : Regs) (last : Option FrameInfo) :
    (r.writeLast last).errInfo = r.errInfo := by cases last <;> rfl
@[simp] theorem writeLast_resLen (r : Regs) (last : Option FrameInfo) :
    (r.writeLast last).resLen = r.resLen := by cases last <;> rfl
@[simp] theorem writeLast_resPrimary (r : Regs) (last : Option FrameInfo) :
    (r.writeLast last).resPrimary = r.resPrimary := by cases last <;> rfl
@[simp] theorem writeLast_resConsumed (r : Regs) (last : Option FrameInfo) :
    (r.writeLast last).resConsumed = r.resConsumed := by cases last <;> rfl
@[simp] theorem writeLast_resBlocks (r : Regs) (last : Option FrameInfo) :
    (r.writeLast last).resBlocks = r.resBlocks := by cases last <;> rfl
@[simp] theorem writeLast_resXformBlocks (r : Regs) (last : Option FrameInfo) :
    (r.writeLast last).resXformBlocks = r.resXformBlocks := by cases last <;> rfl
@[simp] theorem writeLast_resValMismatches (r : Regs) (last : Option FrameInfo) :
    (r.writeLast last).resValMismatches = r.resValMismatches := by cases last <;> rfl
@[simp] theorem writeResults_ctrl (r : Regs) (res : Result) :
    (r.writeResults res).ctrl = r.ctrl := writeLast_ctrl r res.last
@[simp] theorem writeResults_blockSize (r : Regs) (res : Result) :
    (r.writeResults res).blockSize = r.blockSize := writeLast_blockSize r res.last
@[simp] theorem writeResults_maxRun (r : Regs) (res : Result) :
    (r.writeResults res).maxRun = r.maxRun := writeLast_maxRun r res.last
@[simp] theorem writeResults_status (r : Regs) (res : Result) :
    (r.writeResults res).status = r.status := writeLast_status r res.last
@[simp] theorem writeResults_srcAddr (r : Regs) (res : Result) :
    (r.writeResults res).srcAddr = r.srcAddr := writeLast_srcAddr r res.last
@[simp] theorem writeResults_srcLen (r : Regs) (res : Result) :
    (r.writeResults res).srcLen = r.srcLen := writeLast_srcLen r res.last
@[simp] theorem writeResults_dstAddr (r : Regs) (res : Result) :
    (r.writeResults res).dstAddr = r.dstAddr := writeLast_dstAddr r res.last
@[simp] theorem writeResults_dstCap (r : Regs) (res : Result) :
    (r.writeResults res).dstCap = r.dstCap := writeLast_dstCap r res.last
@[simp] theorem writeResults_arg0 (r : Regs) (res : Result) :
    (r.writeResults res).arg0 = r.arg0 := writeLast_arg0 r res.last
@[simp] theorem writeResults_dbg (r : Regs) (res : Result) :
    (r.writeResults res).dbg = r.dbg := writeLast_dbg r res.last
@[simp] theorem writeResults_errInfo (r : Regs) (res : Result) :
    (r.writeResults res).errInfo = r.errInfo := writeLast_errInfo r res.last
@[simp] theorem writeResults_resLen (r : Regs) (res : Result) :
    (r.writeResults res).resLen = u32 res.out.length := rfl
@[simp] theorem writeResults_resPrimary (r : Regs) (res : Result) :
    (r.writeResults res).resPrimary = u32 res.primary := rfl
@[simp] theorem writeResults_resConsumed (r : Regs) (res : Result) :
    (r.writeResults res).resConsumed = u32 res.consumed := rfl
@[simp] theorem writeResults_resBlocks (r : Regs) (res : Result) :
    (r.writeResults res).resBlocks = u32 res.blocks := rfl
@[simp] theorem writeResults_resXformBlocks (r : Regs) (res : Result) :
    (r.writeResults res).resXformBlocks = u32 res.xblocks := rfl
@[simp] theorem writeResults_resValMismatches (r : Regs) (res : Result) :
    (r.writeResults res).resValMismatches = u32 res.valmis := rfl
@[simp] theorem writeResults_lastMode (r : Regs) (res : Result) :
    (r.writeResults res).lastMode = (r.writeLast res.last).lastMode := rfl
@[simp] theorem writeResults_lastRawLen (r : Regs) (res : Result) :
    (r.writeResults res).lastRawLen = (r.writeLast res.last).lastRawLen := rfl
@[simp] theorem writeResults_lastPayloadLen (r : Regs) (res : Result) :
    (r.writeResults res).lastPayloadLen = (r.writeLast res.last).lastPayloadLen := rfl
@[simp] theorem writeResults_lastHeader0 (r : Regs) (res : Result) :
    (r.writeResults res).lastHeader0 = (r.writeLast res.last).lastHeader0 := rfl
@[simp] theorem writePartial_ctrl (r : Regs) (p : Partial) :
    (r.writePartial p).ctrl = r.ctrl := writeLast_ctrl r p.last
@[simp] theorem writePartial_blockSize (r : Regs) (p : Partial) :
    (r.writePartial p).blockSize = r.blockSize := writeLast_blockSize r p.last
@[simp] theorem writePartial_maxRun (r : Regs) (p : Partial) :
    (r.writePartial p).maxRun = r.maxRun := writeLast_maxRun r p.last
@[simp] theorem writePartial_status (r : Regs) (p : Partial) :
    (r.writePartial p).status = r.status := writeLast_status r p.last
@[simp] theorem writePartial_srcAddr (r : Regs) (p : Partial) :
    (r.writePartial p).srcAddr = r.srcAddr := writeLast_srcAddr r p.last
@[simp] theorem writePartial_srcLen (r : Regs) (p : Partial) :
    (r.writePartial p).srcLen = r.srcLen := writeLast_srcLen r p.last
@[simp] theorem writePartial_dstAddr (r : Regs) (p : Partial) :
    (r.writePartial p).dstAddr = r.dstAddr := writeLast_dstAddr r p.last
@[simp] theorem writePartial_dstCap (r : Regs) (p : Partial) :
    (r.writePartial p).dstCap = r.dstCap := writeLast_dstCap r p.last
@[simp] theorem writePartial_arg0 (r : Regs) (p : Partial) :
    (r.writePartial p).arg0 = r.arg0 := writeLast_arg0 r p.last
@[simp] theorem writePartial_dbg (r : Regs) (p : Partial) :
    (r.writePartial p).dbg = r.dbg := writeLast_dbg r p.last
@[simp] theorem writePartial_errInfo (r : Regs) (p : Partial) :
    (r.writePartial p).errInfo = r.errInfo := writeLast_errInfo r p.last
@[simp] theorem writePartial_resLen (r : Regs) (p : Partial) :
    (r.writePartial p).resLen = u32 p.out.length := rfl
@[simp] theorem writePartial_resPrimary (r : Regs) (p : Partial) :
    (r.writePartial p).resPrimary = 0 := rfl
@[simp] theorem writePartial_resConsumed (r : Regs) (p : Partial) :
    (r.writePartial p).resConsumed = u32 p.consumed := rfl
@[simp] theorem writePartial_resBlocks (r : Regs) (p : Partial) :
    (r.writePartial p).resBlocks = u32 p.blocks := rfl
@[simp] theorem writePartial_resXformBlocks (r : Regs) (p : Partial) :
    (r.writePartial p).resXformBlocks = u32 p.xblocks := rfl
@[simp] theorem writePartial_resValMismatches (r : Regs) (p : Partial) :
    (r.writePartial p).resValMismatches = 0 := rfl
@[simp] theorem writePartial_lastMode (r : Regs) (p : Partial) :
    (r.writePartial p).lastMode = (r.writeLast p.last).lastMode := rfl
@[simp] theorem writePartial_lastRawLen (r : Regs) (p : Partial) :
    (r.writePartial p).lastRawLen = (r.writeLast p.last).lastRawLen := rfl
@[simp] theorem writePartial_lastPayloadLen (r : Regs) (p : Partial) :
    (r.writePartial p).lastPayloadLen = (r.writeLast p.last).lastPayloadLen := rfl
@[simp] theorem writePartial_lastHeader0 (r : Regs) (p : Partial) :
    (r.writePartial p).lastHeader0 = (r.writeLast p.last).lastHeader0 := rfl
@[simp] theorem clearResults_ctrl (r : Regs) :
    r.clearResults.ctrl = r.ctrl := rfl
@[simp] theorem clearResults_blockSize (r : Regs) :
    r.clearResults.blockSize = r.blockSize := rfl
@[simp] theorem clearResults_maxRun (r : Regs) :
    r.clearResults.maxRun = r.maxRun := rfl
@[simp] theorem clearResults_status (r : Regs) :
    r.clearResults.status = r.status := rfl
@[simp] theorem clearResults_srcAddr (r : Regs) :
    r.clearResults.srcAddr = r.srcAddr := rfl
@[simp] theorem clearResults_srcLen (r : Regs) :
    r.clearResults.srcLen = r.srcLen := rfl
@[simp] theorem clearResults_dstAddr (r : Regs) :
    r.clearResults.dstAddr = r.dstAddr := rfl
@[simp] theorem clearResults_dstCap (r : Regs) :
    r.clearResults.dstCap = r.dstCap := rfl
@[simp] theorem clearResults_arg0 (r : Regs) :
    r.clearResults.arg0 = r.arg0 := rfl
@[simp] theorem clearResults_dbg (r : Regs) :
    r.clearResults.dbg = r.dbg := rfl
@[simp] theorem clearResults_errInfo (r : Regs) :
    r.clearResults.errInfo = r.errInfo := rfl
@[simp] theorem clearResults_resLen (r : Regs) :
    r.clearResults.resLen = 0 := rfl
@[simp] theorem clearResults_resPrimary (r : Regs) :
    r.clearResults.resPrimary = 0 := rfl
@[simp] theorem clearResults_resConsumed (r : Regs) :
    r.clearResults.resConsumed = 0 := rfl
@[simp] theorem clearResults_resBlocks (r : Regs) :
    r.clearResults.resBlocks = 0 := rfl
@[simp] theorem clearResults_resXformBlocks (r : Regs) :
    r.clearResults.resXformBlocks = 0 := rfl
@[simp] theorem clearResults_resValMismatches (r : Regs) :
    r.clearResults.resValMismatches = 0 := rfl
@[simp] theorem clearResults_lastMode (r : Regs) :
    r.clearResults.lastMode = 0 := rfl
@[simp] theorem clearResults_lastRawLen (r : Regs) :
    r.clearResults.lastRawLen = 0 := rfl
@[simp] theorem clearResults_lastPayloadLen (r : Regs) :
    r.clearResults.lastPayloadLen = 0 := rfl
@[simp] theorem clearResults_lastHeader0 (r : Regs) :
    r.clearResults.lastHeader0 = 0 := rfl
@[simp] theorem issueStart_ctrl (r : Regs) :
    r.issueStart.ctrl = r.ctrl := rfl
@[simp] theorem issueStart_blockSize (r : Regs) :
    r.issueStart.blockSize = r.blockSize := rfl
@[simp] theorem issueStart_maxRun (r : Regs) :
    r.issueStart.maxRun = r.maxRun := rfl
@[simp] theorem issueStart_status (r : Regs) :
    r.issueStart.status = statusIssue r.status := rfl
@[simp] theorem issueStart_srcAddr (r : Regs) :
    r.issueStart.srcAddr = r.srcAddr := rfl
@[simp] theorem issueStart_srcLen (r : Regs) :
    r.issueStart.srcLen = r.srcLen := rfl
@[simp] theorem issueStart_dstAddr (r : Regs) :
    r.issueStart.dstAddr = r.dstAddr := rfl
@[simp] theorem issueStart_dstCap (r : Regs) :
    r.issueStart.dstCap = r.dstCap := rfl
@[simp] theorem issueStart_arg0 (r : Regs) :
    r.issueStart.arg0 = r.arg0 := rfl
@[simp] theorem issueStart_dbg (r : Regs) :
    r.issueStart.dbg = r.dbg := rfl
@[simp] theorem issueStart_errInfo (r : Regs) :
    r.issueStart.errInfo = 0 := rfl
@[simp] theorem issueStart_resLen (r : Regs) :
    r.issueStart.resLen = r.resLen := rfl
@[simp] theorem issueStart_resPrimary (r : Regs) :
    r.issueStart.resPrimary = r.resPrimary := rfl
@[simp] theorem issueStart_resConsumed (r : Regs) :
    r.issueStart.resConsumed = r.resConsumed := rfl
@[simp] theorem issueStart_resBlocks (r : Regs) :
    r.issueStart.resBlocks = r.resBlocks := rfl
@[simp] theorem issueStart_resXformBlocks (r : Regs) :
    r.issueStart.resXformBlocks = r.resXformBlocks := rfl
@[simp] theorem issueStart_resValMismatches (r : Regs) :
    r.issueStart.resValMismatches = r.resValMismatches := rfl
@[simp] theorem issueStart_lastMode (r : Regs) :
    r.issueStart.lastMode = r.lastMode := rfl
@[simp] theorem issueStart_lastRawLen (r : Regs) :
    r.issueStart.lastRawLen = r.lastRawLen := rfl
@[simp] theorem issueStart_lastPayloadLen (r : Regs) :
    r.issueStart.lastPayloadLen = r.lastPayloadLen := rfl
@[simp] theorem issueStart_lastHeader0 (r : Regs) :
    r.issueStart.lastHeader0 = r.lastHeader0 := rfl
@[simp] theorem issueStart_latch (r : Regs) :
    r.issueStart.latch = r.latch := rfl

/-! Draws -/

@[simp] theorem unspecify_regs (s : State) (a n : Nat) :
    (s.unspecify a n).regs = s.regs := rfl
@[simp] theorem unspecify_mem (s : State) (a n : Nat) :
    (s.unspecify a n).mem = fillFree s.mem a n s.draws := rfl
@[simp] theorem unspecify_inFlight (s : State) (a n : Nat) :
    (s.unspecify a n).inFlight = s.inFlight := rfl
@[simp] theorem unspecify_units (s : State) (a n : Nat) :
    (s.unspecify a n).units = s.units := rfl
@[simp] theorem unspecify_rst (s : State) (a n : Nat) :
    (s.unspecify a n).rst = s.rst := rfl
@[simp] theorem unspecify_faults (s : State) (a n : Nat) :
    (s.unspecify a n).faults = s.faults := rfl
@[simp] theorem unspecify_host (s : State) (a n : Nat) :
    (s.unspecify a n).host = s.host := rfl
@[simp] theorem unspecify_schedule (s : State) (a n : Nat) :
    (s.unspecify a n).schedule = s.schedule := rfl
@[simp] theorem unspecify_draws (s : State) (a n : Nat) :
    (s.unspecify a n).draws = s.draws + n := rfl
@[simp] theorem unspecify_regData (s : State) (a n : Nat) :
    (s.unspecify a n).regData = s.regData := rfl
@[simp] theorem unspecify_memData (s : State) (a n : Nat) :
    (s.unspecify a n).memData = s.memData := rfl
@[simp] theorem unspecify_checkFails (s : State) (a n : Nat) :
    (s.unspecify a n).checkFails = s.checkFails := rfl

/-! Successful completion (R106) -/

@[simp] theorem successCompletion_regs (c : Latched) (res : Result) (s : State) :
    (successCompletion c res s).regs = { s.regs.writeResults res with status := statusSuccess (decide (0 < res.valmis)) s.regs.status } := rfl
@[simp] theorem successCompletion_mem (c : Latched) (res : Result) (s : State) :
    (successCompletion c res s).mem = writeBytes s.mem c.dstAddr.toNat res.out := rfl
@[simp] theorem successCompletion_inFlight (c : Latched) (res : Result) (s : State) :
    (successCompletion c res s).inFlight = none := rfl
@[simp] theorem successCompletion_units (c : Latched) (res : Result) (s : State) :
    (successCompletion c res s).units = s.units := rfl
@[simp] theorem successCompletion_rst (c : Latched) (res : Result) (s : State) :
    (successCompletion c res s).rst = s.rst := rfl
@[simp] theorem successCompletion_faults (c : Latched) (res : Result) (s : State) :
    (successCompletion c res s).faults = s.faults := rfl
@[simp] theorem successCompletion_host (c : Latched) (res : Result) (s : State) :
    (successCompletion c res s).host = s.host := rfl
@[simp] theorem successCompletion_schedule (c : Latched) (res : Result) (s : State) :
    (successCompletion c res s).schedule = s.schedule := rfl
@[simp] theorem successCompletion_draws (c : Latched) (res : Result) (s : State) :
    (successCompletion c res s).draws = s.draws := rfl
@[simp] theorem successCompletion_regData (c : Latched) (res : Result) (s : State) :
    (successCompletion c res s).regData = s.regData := rfl
@[simp] theorem successCompletion_memData (c : Latched) (res : Result) (s : State) :
    (successCompletion c res s).memData = s.memData := rfl
@[simp] theorem successCompletion_checkFails (c : Latched) (res : Result) (s : State) :
    (successCompletion c res s).checkFails = s.checkFails := rfl

/-! Error completion at the completion step (R108) -/

@[simp] theorem errorCompletion_regs (c : Latched) (code : ErrCode) (info : Word) (p : Partial) (s : State) :
    (errorCompletion c code info p s).regs = { s.regs.writePartial p with errInfo := info, status := statusError code s.regs.status } := rfl
@[simp] theorem errorCompletion_mem (c : Latched) (code : ErrCode) (info : Word) (p : Partial) (s : State) :
    (errorCompletion c code info p s).mem = fillFree (writeBytes s.mem c.dstAddr.toNat p.out) (c.dstAddr.toNat + p.out.length) (c.dstCap.toNat - p.out.length) s.draws := rfl
@[simp] theorem errorCompletion_inFlight (c : Latched) (code : ErrCode) (info : Word) (p : Partial) (s : State) :
    (errorCompletion c code info p s).inFlight = none := rfl
@[simp] theorem errorCompletion_units (c : Latched) (code : ErrCode) (info : Word) (p : Partial) (s : State) :
    (errorCompletion c code info p s).units = s.units := rfl
@[simp] theorem errorCompletion_rst (c : Latched) (code : ErrCode) (info : Word) (p : Partial) (s : State) :
    (errorCompletion c code info p s).rst = s.rst := rfl
@[simp] theorem errorCompletion_faults (c : Latched) (code : ErrCode) (info : Word) (p : Partial) (s : State) :
    (errorCompletion c code info p s).faults = s.faults := rfl
@[simp] theorem errorCompletion_host (c : Latched) (code : ErrCode) (info : Word) (p : Partial) (s : State) :
    (errorCompletion c code info p s).host = s.host := rfl
@[simp] theorem errorCompletion_schedule (c : Latched) (code : ErrCode) (info : Word) (p : Partial) (s : State) :
    (errorCompletion c code info p s).schedule = s.schedule := rfl
@[simp] theorem errorCompletion_draws (c : Latched) (code : ErrCode) (info : Word) (p : Partial) (s : State) :
    (errorCompletion c code info p s).draws = s.draws + (c.dstCap.toNat - p.out.length) := rfl
@[simp] theorem errorCompletion_regData (c : Latched) (code : ErrCode) (info : Word) (p : Partial) (s : State) :
    (errorCompletion c code info p s).regData = s.regData := rfl
@[simp] theorem errorCompletion_memData (c : Latched) (code : ErrCode) (info : Word) (p : Partial) (s : State) :
    (errorCompletion c code info p s).memData = s.memData := rfl
@[simp] theorem errorCompletion_checkFails (c : Latched) (code : ErrCode) (info : Word) (p : Partial) (s : State) :
    (errorCompletion c code info p s).checkFails = s.checkFails := rfl

/-! Issue-time error completion (R113), BAD_CMD (R82), lost CMD write (R111) -/

@[simp] theorem issueError_regs (code : ErrCode) (info : Word) (s : State) :
    (issueError code info s).regs = { s.regs.clearResults with errInfo := info, status := statusIssueError code s.regs.status } := rfl
@[simp] theorem issueError_mem (code : ErrCode) (info : Word) (s : State) :
    (issueError code info s).mem = s.mem := rfl
@[simp] theorem issueError_inFlight (code : ErrCode) (info : Word) (s : State) :
    (issueError code info s).inFlight = s.inFlight := rfl
@[simp] theorem issueError_units (code : ErrCode) (info : Word) (s : State) :
    (issueError code info s).units = s.units := rfl
@[simp] theorem issueError_rst (code : ErrCode) (info : Word) (s : State) :
    (issueError code info s).rst = s.rst := rfl
@[simp] theorem issueError_faults (code : ErrCode) (info : Word) (s : State) :
    (issueError code info s).faults = s.faults := rfl
@[simp] theorem issueError_host (code : ErrCode) (info : Word) (s : State) :
    (issueError code info s).host = s.host := rfl
@[simp] theorem issueError_schedule (code : ErrCode) (info : Word) (s : State) :
    (issueError code info s).schedule = s.schedule := rfl
@[simp] theorem issueError_draws (code : ErrCode) (info : Word) (s : State) :
    (issueError code info s).draws = s.draws := rfl
@[simp] theorem issueError_regData (code : ErrCode) (info : Word) (s : State) :
    (issueError code info s).regData = s.regData := rfl
@[simp] theorem issueError_memData (code : ErrCode) (info : Word) (s : State) :
    (issueError code info s).memData = s.memData := rfl
@[simp] theorem issueError_checkFails (code : ErrCode) (info : Word) (s : State) :
    (issueError code info s).checkFails = s.checkFails := rfl
@[simp] theorem badCommand_regs (w : Word) (s : State) :
    (badCommand w s).regs = { s.regs.issueStart.clearResults with errInfo := w, status := statusIssueError .badCmd (statusIssue s.regs.status) } := rfl
@[simp] theorem badCommand_mem (w : Word) (s : State) :
    (badCommand w s).mem = s.mem := rfl
@[simp] theorem badCommand_inFlight (w : Word) (s : State) :
    (badCommand w s).inFlight = s.inFlight := rfl
@[simp] theorem badCommand_units (w : Word) (s : State) :
    (badCommand w s).units = s.units := rfl
@[simp] theorem badCommand_rst (w : Word) (s : State) :
    (badCommand w s).rst = s.rst := rfl
@[simp] theorem badCommand_faults (w : Word) (s : State) :
    (badCommand w s).faults = s.faults := rfl
@[simp] theorem badCommand_host (w : Word) (s : State) :
    (badCommand w s).host = s.host := rfl
@[simp] theorem badCommand_schedule (w : Word) (s : State) :
    (badCommand w s).schedule = s.schedule := rfl
@[simp] theorem badCommand_draws (w : Word) (s : State) :
    (badCommand w s).draws = s.draws := rfl
@[simp] theorem badCommand_regData (w : Word) (s : State) :
    (badCommand w s).regData = s.regData := rfl
@[simp] theorem badCommand_memData (w : Word) (s : State) :
    (badCommand w s).memData = s.memData := rfl
@[simp] theorem badCommand_checkFails (w : Word) (s : State) :
    (badCommand w s).checkFails = s.checkFails := rfl
@[simp] theorem lostCommand_regs (s : State) :
    (lostCommand s).regs = { s.regs with status := setBit s.regs.status 4 true } := rfl
@[simp] theorem lostCommand_mem (s : State) :
    (lostCommand s).mem = s.mem := rfl
@[simp] theorem lostCommand_inFlight (s : State) :
    (lostCommand s).inFlight = s.inFlight := rfl
@[simp] theorem lostCommand_units (s : State) :
    (lostCommand s).units = s.units := rfl
@[simp] theorem lostCommand_rst (s : State) :
    (lostCommand s).rst = s.rst := rfl
@[simp] theorem lostCommand_faults (s : State) :
    (lostCommand s).faults = s.faults := rfl
@[simp] theorem lostCommand_host (s : State) :
    (lostCommand s).host = s.host := rfl
@[simp] theorem lostCommand_schedule (s : State) :
    (lostCommand s).schedule = s.schedule := rfl
@[simp] theorem lostCommand_draws (s : State) :
    (lostCommand s).draws = s.draws := rfl
@[simp] theorem lostCommand_regData (s : State) :
    (lostCommand s).regData = s.regData := rfl
@[simp] theorem lostCommand_memData (s : State) :
    (lostCommand s).memData = s.memData := rfl
@[simp] theorem lostCommand_checkFails (s : State) :
    (lostCommand s).checkFails = s.checkFails := rfl

/-! Completion, success or error: what it never touches -/

@[simp] theorem finishCommand_units (c : Latched) (v : CommandResult) (s : State) :
    (finishCommand c v s).units = s.units := by unfold finishCommand; split <;> [split <;> rfl; rfl]
@[simp] theorem finishCommand_rst (c : Latched) (v : CommandResult) (s : State) :
    (finishCommand c v s).rst = s.rst := by unfold finishCommand; split <;> [split <;> rfl; rfl]
@[simp] theorem finishCommand_faults (c : Latched) (v : CommandResult) (s : State) :
    (finishCommand c v s).faults = s.faults := by unfold finishCommand; split <;> [split <;> rfl; rfl]
@[simp] theorem finishCommand_host (c : Latched) (v : CommandResult) (s : State) :
    (finishCommand c v s).host = s.host := by unfold finishCommand; split <;> [split <;> rfl; rfl]
@[simp] theorem finishCommand_schedule (c : Latched) (v : CommandResult) (s : State) :
    (finishCommand c v s).schedule = s.schedule := by unfold finishCommand; split <;> [split <;> rfl; rfl]
@[simp] theorem finishCommand_regData (c : Latched) (v : CommandResult) (s : State) :
    (finishCommand c v s).regData = s.regData := by unfold finishCommand; split <;> [split <;> rfl; rfl]
@[simp] theorem finishCommand_memData (c : Latched) (v : CommandResult) (s : State) :
    (finishCommand c v s).memData = s.memData := by unfold finishCommand; split <;> [split <;> rfl; rfl]
@[simp] theorem finishCommand_checkFails (c : Latched) (v : CommandResult) (s : State) :
    (finishCommand c v s).checkFails = s.checkFails := by unfold finishCommand; split <;> [split <;> rfl; rfl]
@[simp] theorem finishCommand_inFlight (c : Latched) (v : CommandResult) (s : State) :
    (finishCommand c v s).inFlight = none := by unfold finishCommand; split <;> [split <;> rfl; rfl]
@[simp] theorem finishCommand_ctrl (c : Latched) (v : CommandResult) (s : State) :
    (finishCommand c v s).regs.ctrl = s.regs.ctrl := by unfold finishCommand; split <;> [split <;> simp; simp]
@[simp] theorem finishCommand_blockSize (c : Latched) (v : CommandResult) (s : State) :
    (finishCommand c v s).regs.blockSize = s.regs.blockSize := by unfold finishCommand; split <;> [split <;> simp; simp]
@[simp] theorem finishCommand_maxRun (c : Latched) (v : CommandResult) (s : State) :
    (finishCommand c v s).regs.maxRun = s.regs.maxRun := by unfold finishCommand; split <;> [split <;> simp; simp]
@[simp] theorem finishCommand_srcAddr (c : Latched) (v : CommandResult) (s : State) :
    (finishCommand c v s).regs.srcAddr = s.regs.srcAddr := by unfold finishCommand; split <;> [split <;> simp; simp]
@[simp] theorem finishCommand_srcLen (c : Latched) (v : CommandResult) (s : State) :
    (finishCommand c v s).regs.srcLen = s.regs.srcLen := by unfold finishCommand; split <;> [split <;> simp; simp]
@[simp] theorem finishCommand_dstAddr (c : Latched) (v : CommandResult) (s : State) :
    (finishCommand c v s).regs.dstAddr = s.regs.dstAddr := by unfold finishCommand; split <;> [split <;> simp; simp]
@[simp] theorem finishCommand_dstCap (c : Latched) (v : CommandResult) (s : State) :
    (finishCommand c v s).regs.dstCap = s.regs.dstCap := by unfold finishCommand; split <;> [split <;> simp; simp]
@[simp] theorem finishCommand_arg0 (c : Latched) (v : CommandResult) (s : State) :
    (finishCommand c v s).regs.arg0 = s.regs.arg0 := by unfold finishCommand; split <;> [split <;> simp; simp]
@[simp] theorem finishCommand_dbg (c : Latched) (v : CommandResult) (s : State) :
    (finishCommand c v s).regs.dbg = s.regs.dbg := by unfold finishCommand; split <;> [split <;> simp; simp]

/-! Issue of a command: what it never touches -/

@[simp] theorem issueCommand_mem (P : Params) (i : Instr) (s : State) :
    (issueCommand P i s).mem = s.mem := by unfold issueCommand; simp only []; split <;> rfl
@[simp] theorem issueCommand_units (P : Params) (i : Instr) (s : State) :
    (issueCommand P i s).units = s.units := by unfold issueCommand; simp only []; split <;> rfl
@[simp] theorem issueCommand_rst (P : Params) (i : Instr) (s : State) :
    (issueCommand P i s).rst = s.rst := by unfold issueCommand; simp only []; split <;> rfl
@[simp] theorem issueCommand_faults (P : Params) (i : Instr) (s : State) :
    (issueCommand P i s).faults = s.faults := by unfold issueCommand; simp only []; split <;> rfl
@[simp] theorem issueCommand_host (P : Params) (i : Instr) (s : State) :
    (issueCommand P i s).host = s.host := by unfold issueCommand; simp only []; split <;> rfl
@[simp] theorem issueCommand_schedule (P : Params) (i : Instr) (s : State) :
    (issueCommand P i s).schedule = s.schedule := by unfold issueCommand; simp only []; split <;> rfl
@[simp] theorem issueCommand_draws (P : Params) (i : Instr) (s : State) :
    (issueCommand P i s).draws = s.draws := by unfold issueCommand; simp only []; split <;> rfl
@[simp] theorem issueCommand_regData (P : Params) (i : Instr) (s : State) :
    (issueCommand P i s).regData = s.regData := by unfold issueCommand; simp only []; split <;> rfl
@[simp] theorem issueCommand_memData (P : Params) (i : Instr) (s : State) :
    (issueCommand P i s).memData = s.memData := by unfold issueCommand; simp only []; split <;> rfl
@[simp] theorem issueCommand_checkFails (P : Params) (i : Instr) (s : State) :
    (issueCommand P i s).checkFails = s.checkFails := by unfold issueCommand; simp only []; split <;> rfl
@[simp] theorem issueCommand_ctrl (P : Params) (i : Instr) (s : State) :
    (issueCommand P i s).regs.ctrl = s.regs.ctrl := by unfold issueCommand; simp only []; split <;> rfl
@[simp] theorem issueCommand_blockSize (P : Params) (i : Instr) (s : State) :
    (issueCommand P i s).regs.blockSize = s.regs.blockSize := by unfold issueCommand; simp only []; split <;> rfl
@[simp] theorem issueCommand_maxRun (P : Params) (i : Instr) (s : State) :
    (issueCommand P i s).regs.maxRun = s.regs.maxRun := by unfold issueCommand; simp only []; split <;> rfl
@[simp] theorem issueCommand_srcAddr (P : Params) (i : Instr) (s : State) :
    (issueCommand P i s).regs.srcAddr = s.regs.srcAddr := by unfold issueCommand; simp only []; split <;> rfl
@[simp] theorem issueCommand_srcLen (P : Params) (i : Instr) (s : State) :
    (issueCommand P i s).regs.srcLen = s.regs.srcLen := by unfold issueCommand; simp only []; split <;> rfl
@[simp] theorem issueCommand_dstAddr (P : Params) (i : Instr) (s : State) :
    (issueCommand P i s).regs.dstAddr = s.regs.dstAddr := by unfold issueCommand; simp only []; split <;> rfl
@[simp] theorem issueCommand_dstCap (P : Params) (i : Instr) (s : State) :
    (issueCommand P i s).regs.dstCap = s.regs.dstCap := by unfold issueCommand; simp only []; split <;> rfl
@[simp] theorem issueCommand_arg0 (P : Params) (i : Instr) (s : State) :
    (issueCommand P i s).regs.arg0 = s.regs.arg0 := by unfold issueCommand; simp only []; split <;> rfl
@[simp] theorem issueCommand_dbg (P : Params) (i : Instr) (s : State) :
    (issueCommand P i s).regs.dbg = s.regs.dbg := by unfold issueCommand; simp only []; split <;> rfl

/-! Reset (R250–R252) -/

@[simp] theorem resetDevice_regs (s : State) :
    (resetDevice s).regs = Regs.reset := rfl
@[simp] theorem resetDevice_inFlight (s : State) :
    (resetDevice s).inFlight = none := rfl
@[simp] theorem resetDevice_units (s : State) :
    (resetDevice s).units = Units.reset := rfl
@[simp] theorem resetDevice_rst (s : State) :
    (resetDevice s).rst = s.rst := by unfold resetDevice; split <;> rfl
@[simp] theorem resetDevice_faults (s : State) :
    (resetDevice s).faults = s.faults := by unfold resetDevice; split <;> rfl
@[simp] theorem resetDevice_host (s : State) :
    (resetDevice s).host = s.host := by unfold resetDevice; split <;> rfl
@[simp] theorem resetDevice_schedule (s : State) :
    (resetDevice s).schedule = s.schedule := by unfold resetDevice; split <;> rfl
@[simp] theorem resetDevice_regData (s : State) :
    (resetDevice s).regData = s.regData := by unfold resetDevice; split <;> rfl
@[simp] theorem resetDevice_memData (s : State) :
    (resetDevice s).memData = s.memData := by unfold resetDevice; split <;> rfl
@[simp] theorem resetDevice_checkFails (s : State) :
    (resetDevice s).checkFails = s.checkFails := by unfold resetDevice; split <;> rfl

/-! Abort (R112) -/

@[simp] theorem abort_rst (P : Params) (s : State) :
    (abort P s).rst = s.rst := by unfold abort; split <;> rfl
@[simp] theorem abort_faults (P : Params) (s : State) :
    (abort P s).faults = s.faults := by unfold abort; split <;> rfl
@[simp] theorem abort_host (P : Params) (s : State) :
    (abort P s).host = s.host := by unfold abort; split <;> rfl
@[simp] theorem abort_schedule (P : Params) (s : State) :
    (abort P s).schedule = s.schedule := by unfold abort; split <;> rfl
@[simp] theorem abort_regData (P : Params) (s : State) :
    (abort P s).regData = s.regData := by unfold abort; split <;> rfl
@[simp] theorem abort_memData (P : Params) (s : State) :
    (abort P s).memData = s.memData := by unfold abort; split <;> rfl
@[simp] theorem abort_checkFails (P : Params) (s : State) :
    (abort P s).checkFails = s.checkFails := by unfold abort; split <;> rfl
@[simp] theorem abort_inFlight (P : Params) (s : State) :
    (abort P s).inFlight = none := by unfold abort; split <;> simp_all
@[simp] theorem abort_ctrl (P : Params) (s : State) :
    (abort P s).regs.ctrl = s.regs.ctrl := by unfold abort; split <;> rfl
@[simp] theorem abort_blockSize (P : Params) (s : State) :
    (abort P s).regs.blockSize = s.regs.blockSize := by unfold abort; split <;> rfl
@[simp] theorem abort_maxRun (P : Params) (s : State) :
    (abort P s).regs.maxRun = s.regs.maxRun := by unfold abort; split <;> rfl
@[simp] theorem abort_srcAddr (P : Params) (s : State) :
    (abort P s).regs.srcAddr = s.regs.srcAddr := by unfold abort; split <;> rfl
@[simp] theorem abort_srcLen (P : Params) (s : State) :
    (abort P s).regs.srcLen = s.regs.srcLen := by unfold abort; split <;> rfl
@[simp] theorem abort_dstAddr (P : Params) (s : State) :
    (abort P s).regs.dstAddr = s.regs.dstAddr := by unfold abort; split <;> rfl
@[simp] theorem abort_dstCap (P : Params) (s : State) :
    (abort P s).regs.dstCap = s.regs.dstCap := by unfold abort; split <;> rfl
@[simp] theorem abort_arg0 (P : Params) (s : State) :
    (abort P s).regs.arg0 = s.regs.arg0 := by unfold abort; split <;> rfl
@[simp] theorem abort_dbg (P : Params) (s : State) :
    (abort P s).regs.dbg = s.regs.dbg := by unfold abort; split <;> rfl

/-! Register reads and bus faults -/

@[simp] theorem readReg_regs (P : Params) (r : Reg) (s : State) :
    (readReg P r s).regs = s.regs := by unfold readReg; split <;> rfl
@[simp] theorem readReg_mem (P : Params) (r : Reg) (s : State) :
    (readReg P r s).mem = s.mem := by unfold readReg; split <;> rfl
@[simp] theorem readReg_inFlight (P : Params) (r : Reg) (s : State) :
    (readReg P r s).inFlight = s.inFlight := by unfold readReg; split <;> rfl
@[simp] theorem readReg_units (P : Params) (r : Reg) (s : State) :
    (readReg P r s).units = s.units := by unfold readReg; split <;> rfl
@[simp] theorem readReg_rst (P : Params) (r : Reg) (s : State) :
    (readReg P r s).rst = s.rst := by unfold readReg; split <;> rfl
@[simp] theorem readReg_faults (P : Params) (r : Reg) (s : State) :
    (readReg P r s).faults = s.faults := by unfold readReg; split <;> rfl
@[simp] theorem readReg_host (P : Params) (r : Reg) (s : State) :
    (readReg P r s).host = s.host := by unfold readReg; split <;> rfl
@[simp] theorem readReg_schedule (P : Params) (r : Reg) (s : State) :
    (readReg P r s).schedule = s.schedule := by unfold readReg; split <;> rfl
@[simp] theorem readReg_memData (P : Params) (r : Reg) (s : State) :
    (readReg P r s).memData = s.memData := by unfold readReg; split <;> rfl
@[simp] theorem readReg_checkFails (P : Params) (r : Reg) (s : State) :
    (readReg P r s).checkFails = s.checkFails := by unfold readReg; split <;> rfl
@[simp] theorem busFault_regs (off width : Nat) (s : State) :
    (busFault off width s).regs = s.regs := rfl
@[simp] theorem busFault_mem (off width : Nat) (s : State) :
    (busFault off width s).mem = s.mem := rfl
@[simp] theorem busFault_inFlight (off width : Nat) (s : State) :
    (busFault off width s).inFlight = s.inFlight := rfl
@[simp] theorem busFault_units (off width : Nat) (s : State) :
    (busFault off width s).units = s.units := rfl
@[simp] theorem busFault_rst (off width : Nat) (s : State) :
    (busFault off width s).rst = s.rst := rfl
@[simp] theorem busFault_faults (off width : Nat) (s : State) :
    (busFault off width s).faults = s.faults ++ [.hostBusFault off width] := rfl
@[simp] theorem busFault_host (off width : Nat) (s : State) :
    (busFault off width s).host = s.host := rfl
@[simp] theorem busFault_schedule (off width : Nat) (s : State) :
    (busFault off width s).schedule = s.schedule := rfl
@[simp] theorem busFault_draws (off width : Nat) (s : State) :
    (busFault off width s).draws = s.draws := rfl
@[simp] theorem busFault_regData (off width : Nat) (s : State) :
    (busFault off width s).regData = s.regData := rfl
@[simp] theorem busFault_memData (off width : Nat) (s : State) :
    (busFault off width s).memData = s.memData := rfl
@[simp] theorem busFault_checkFails (off width : Nat) (s : State) :
    (busFault off width s).checkFails = s.checkFails := rfl

end Sys2Proof.Machine
end

