-- ==== Sys2Proof/Laws/Command.lean ====
section
/-! SUPPORT. What each shared operation of the command lifecycle can do, said once: success, error, issue, refusal. -/

namespace Sys2Proof.Machine

open Sys2Proof.Safety

theorem u32_toNat {n : Nat} (h : n < 2 ^ 32) : (u32 n).toNat = n := by
  rw [u32, BitVec.toNat_ofNat, Nat.mod_eq_of_lt h]

theorem inDest_eq_false {c : Latched} {a : Nat} :
    c.inDest a = false ↔ (a < c.dstAddr.toNat ∨ c.dstAddr.toNat + c.dstCap.toNat ≤ a) := by
  simp only [Latched.inDest, Bool.and_eq_false_iff, decide_eq_false_iff_not]; omega

theorem inSource_eq_false {c : Latched} {a : Nat} :
    c.inSource a = false ↔ (a < c.srcAddr.toNat ∨ c.srcAddr.toNat + c.srcLen.toNat ≤ a) := by
  simp only [Latched.inSource, Bool.and_eq_false_iff, decide_eq_false_iff_not]; omega

@[simp] theorem source_length (s : State) (c : Latched) : (s.source c).length = c.srcLen.toNat := by
  simp [State.source]

theorem writeLast_lastRegsHold (r : Regs) (last : Option FrameInfo) : LastRegsHold (r.writeLast last) last := by
  cases last <;> simp [LastRegsHold, Regs.writeLast]

/-- A successful completion is what R106 and R107 say. -/
theorem successCompletion_succeeded {c : Latched} {res : Result} {s : State} (hm : Memory.wf s.mem) :
    Succeeded c res s (successCompletion c res s) where
  output := readBytes_writeBytes hm _ _
  memory a ha := readByte_writeBytes_outside ha
  resLen := rfl
  resPrimary := rfl
  resConsumed := rfl
  resBlocks := rfl
  resXformBlocks := rfl
  resValMismatches := rfl
  last := by cases h : res.last <;> simp [successCompletion, Regs.writeResults, LastRegsHold, Regs.writeLast, h]
  busy := getLsbD_statusSuccess _ _ 0
  done := getLsbD_statusSuccess _ _ 1
  valMismatch := getLsbD_statusSuccess _ _ 3
  err := getLsbD_statusSuccess _ _ 2
  errCode := statusErrCode_statusSuccess _ _
  cmdOvr := getLsbD_statusSuccess _ _ 4
  errInfo := by simp
  config := by constructor <;> simp
  inFlight := rfl
  outside := by constructor <;> rfl

/-- An error completion at the completion step is what R108 says. -/
theorem errorCompletion_failed {c : Latched} {code : ErrCode} {info : Word} {p : Partial} {s : State}
    (hm : Memory.wf s.mem) (hp : p.out.length ≤ c.dstCap.toNat) :
    Failed c code info p s (errorCompletion c code info p s) where
  output := by
    rw [errorCompletion_mem, readBytes_congr (fun k hk => readByte_fillFree_outside (.inl (by omega)))]
    exact readBytes_writeBytes hm _ _
  draws k h1 h2 := by
    have := readByte_fillFree_inside (writeBytes_wf hm c.dstAddr.toNat p.out) (c.dstAddr.toNat + p.out.length)
      (c.dstCap.toNat - p.out.length) s.draws (k - p.out.length) (by omega)
    rwa [show c.dstAddr.toNat + p.out.length + (k - p.out.length) = c.dstAddr.toNat + k by omega] at this
  memory a ha := by
    rw [inDest_eq_false] at ha
    rw [errorCompletion_mem, readByte_fillFree_outside (by omega), readByte_writeBytes_outside (by omega)]
  resLen := rfl
  resPrimary := rfl
  resConsumed := rfl
  resBlocks := rfl
  resXformBlocks := rfl
  resValMismatches := rfl
  last := by cases h : p.last <;> simp [LastRegsHold, Regs.writeLast, h]
  busy := getLsbD_statusError _ _ 0 (by omega)
  done := getLsbD_statusError _ _ 1 (by omega)
  err := getLsbD_statusError _ _ 2 (by omega)
  errCode := statusErrCode_statusError _ _
  valMismatch := getLsbD_statusError _ _ 3 (by omega)
  cmdOvr := getLsbD_statusError _ _ 4 (by omega)
  errInfo := rfl
  config := by constructor <;> simp
  inFlight := rfl
  outside := by constructor <;> rfl

/-- The unit storage has no part in what a success says. -/
theorem succeeded_with_units {c : Latched} {res : Result} {s t : State} (h : Succeeded c res s t) (u : Units) :
    Succeeded c res s { t with units := u } :=
  ⟨h.output, h.memory, h.resLen, h.resPrimary, h.resConsumed, h.resBlocks, h.resXformBlocks, h.resValMismatches, h.last,
    h.busy, h.done, h.valMismatch, h.err, h.errCode, h.cmdOvr, h.errInfo, h.config, h.inFlight,
    ⟨h.outside.rst, h.outside.faults, h.outside.host, h.outside.schedule, h.outside.regData, h.outside.memData,
      h.outside.checkFails⟩⟩

/-- The unit storage has no part in what an error says. -/
theorem failed_with_units {c : Latched} {code : ErrCode} {info : Word} {p : Partial} {s t : State}
    (h : Failed c code info p s t) (u : Units) : Failed c code info p s { t with units := u } :=
  ⟨h.output, h.draws, h.memory, h.resLen, h.resPrimary, h.resConsumed, h.resBlocks, h.resXformBlocks,
    h.resValMismatches, h.last, h.busy, h.done, h.err, h.errCode, h.valMismatch, h.cmdOvr, h.errInfo, h.config,
    h.inFlight,
    ⟨h.outside.rst, h.outside.faults, h.outside.host, h.outside.schedule, h.outside.regData, h.outside.memData,
      h.outside.checkFails⟩⟩

/-- The completion of the command in flight, its windows being in memory (R106). -/
theorem completeCommand_eq {P : Params} {run : Latched → List Byte → CommandResult}
    {after : Latched → List Byte → Units → Units} {c : Latched} {s : State} (hw : WindowsInMemory P c) :
    completeCommand P run after c s
      = .next { finishCommand c (run c (s.source c)) s with units := after c (s.source c) s.units } := by
  unfold completeCommand; rw [hw.1, hw.2]; rfl

/-- If a completion answers a next state, its windows are in memory and the state is that of `finishCommand`. -/
theorem completeCommand_next {P : Params} {run : Latched → List Byte → CommandResult}
    {after : Latched → List Byte → Units → Units} {c : Latched} {s t : State}
    (h : completeCommand P run after c s = .next t) :
    WindowsInMemory P c
      ∧ t = { finishCommand c (run c (s.source c)) s with units := after c (s.source c) s.units } := by
  unfold completeCommand at h
  split at h
  · rename_i hw
    rw [Bool.and_eq_true] at hw
    exact ⟨hw, (Host.Outcome.next.inj h).symm⟩
  · cases h

/-- The step of a command with nothing in flight is its issue (R100). -/
theorem runCommand_idle {P : Params} {i : Instr} {run : Latched → List Byte → CommandResult}
    {after : Latched → List Byte → Units → Units} {s : State} (h : s.inFlight = none) :
    runCommand P i run after s = .next (issueCommand P i s) := by
  unfold runCommand; rw [h]

/-- The step of the command in flight is its completion (R106). -/
theorem runCommand_flying {P : Params} {i : Instr} {run : Latched → List Byte → CommandResult}
    {after : Latched → List Byte → Units → Units} {s : State} {c : Latched} (h : Flying s i c) :
    runCommand P i run after s = completeCommand P run after c s := by
  unfold runCommand; rw [h]; simp

/-- A command whose pure function succeeds with output that fits completes successfully. -/
theorem runCommand_succeeds {P : Params} {i : Instr} {run : Latched → List Byte → CommandResult}
    {after : Latched → List Byte → Units → Units} {s : State} {c : Latched} {res : Result} (hm : Memory.wf s.mem)
    (hf : Flying s i c) (hw : WindowsInMemory P c) (hr : run c (s.source c) = .ok res)
    (hfit : res.out.length ≤ c.dstCap.toNat) :
    ∃ t, runCommand P i run after s = .next t ∧ Succeeded c res s t := by
  refine ⟨_, (runCommand_flying hf).trans (completeCommand_eq hw), ?_⟩
  rw [hr]
  simp only [finishCommand, if_neg (Nat.not_lt.2 hfit)]
  exact succeeded_with_units (successCompletion_succeeded hm) _

/-- A command whose output does not fit ends with OUTPUT_OVERFLOW. -/
theorem runCommand_overflows {P : Params} {i : Instr} {run : Latched → List Byte → CommandResult}
    {after : Latched → List Byte → Units → Units} {s : State} {c : Latched} {res : Result} (hm : Memory.wf s.mem)
    (hf : Flying s i c) (hw : WindowsInMemory P c) (hr : run c (s.source c) = .ok res)
    (hfit : c.dstCap.toNat < res.out.length) :
    ∃ t, runCommand P i run after s = .next t ∧ Failed c .outputOverflow (overflowInfo res.out.length) {} s t := by
  refine ⟨_, (runCommand_flying hf).trans (completeCommand_eq hw), ?_⟩
  rw [hr]
  simp only [finishCommand, if_pos hfit]
  exact failed_with_units (errorCompletion_failed hm (by simp)) _

/-- A command whose pure function fails ends with its error. -/
theorem runCommand_fails {P : Params} {i : Instr} {run : Latched → List Byte → CommandResult}
    {after : Latched → List Byte → Units → Units} {s : State} {c : Latched} {code : ErrCode} {info : Word}
    {p : Partial} (hm : Memory.wf s.mem) (hf : Flying s i c) (hw : WindowsInMemory P c)
    (hr : run c (s.source c) = .err code info p) (hp : p.out.length ≤ c.dstCap.toNat) :
    ∃ t, runCommand P i run after s = .next t ∧ Failed c code info p s t := by
  refine ⟨_, (runCommand_flying hf).trans (completeCommand_eq hw), ?_⟩
  rw [hr]
  exact failed_with_units (errorCompletion_failed hm hp) _

/-- An issue-time error completion after R101 is what R113 says. -/
theorem issueError_refused {s : State} {code : ErrCode} {info : Word} (h : s.inFlight = none) :
    RefusedAtIssue code info s (issueError code info { s with regs := s.regs.issueStart }) where
  memory := rfl
  results := by constructor <;> rfl
  busy := (getLsbD_statusIssueError _ _ 0 (by omega)).trans (getLsbD_statusIssue _ 0 (by omega))
  done := getLsbD_statusIssueError _ _ 1 (by omega)
  err := getLsbD_statusIssueError _ _ 2 (by omega)
  errCode := statusErrCode_statusIssueError _ _
  valMismatch := (getLsbD_statusIssueError _ _ 3 (by omega)).trans (getLsbD_statusIssue _ 3 (by omega))
  cmdOvr := (getLsbD_statusIssueError _ _ 4 (by omega)).trans (getLsbD_statusIssue _ 4 (by omega))
  errInfo := rfl
  config := by constructor <;> rfl
  inFlight := h
  units := rfl
  outside := by constructor <;> rfl

/-- The issue of a command that fails a check (R113). -/
theorem issueCommand_refused {P : Params} {i : Instr} {s : State} {code : ErrCode} {info : Word}
    (h : s.inFlight = none) (hc : issueCheck P i s.regs.latch = some (code, info)) :
    RefusedAtIssue code info s (issueCommand P i s) := by
  unfold issueCommand
  simp only [issueStart_latch, hc]
  exact issueError_refused h

/-- The issue of a command that passes its checks (R101, R103, R104). -/
theorem issueCommand_issued {P : Params} {i : Instr} {s : State} (hc : issueCheck P i s.regs.latch = none) :
    Issued i s (issueCommand P i s) := by
  unfold issueCommand
  simp only [issueStart_latch, hc]
  exact
    { inFlight := rfl
      busy := getLsbD_setBit _ _ _ 0 (by omega)
      done := (getLsbD_setBit _ _ _ 1 (by omega)).trans (getLsbD_statusIssue _ 1 (by omega))
      err := (getLsbD_setBit _ _ _ 2 (by omega)).trans (getLsbD_statusIssue _ 2 (by omega))
      errCode := (statusErrCode_setBit _ _ _ (by omega)).trans (statusErrCode_statusIssue _)
      valMismatch := (getLsbD_setBit _ _ _ 3 (by omega)).trans (getLsbD_statusIssue _ 3 (by omega))
      cmdOvr := (getLsbD_setBit _ _ _ 4 (by omega)).trans (getLsbD_statusIssue _ 4 (by omega))
      errInfo := rfl
      results := by constructor <;> rfl
      config := by constructor <;> rfl
      memory := rfl
      units := rfl
      draws := rfl
      outside := by constructor <;> rfl }

/-- Every command runs its pure function of R105 through the shared lifecycle. -/
theorem exec_eq_runCommand (i : Instr) : ∃ after, ∀ s,
    exec i s = runCommand Config.params i (fun c src => commandResult Config.params i c src) after s := by
  cases i <;> exact ⟨_, fun _ => rfl⟩

/-- If the step of the command in flight answers a next state, its windows are in memory and the state is that of
`finishCommand`, up to the unit storage (R106). -/
theorem exec_flying_next {i : Instr} {s t : State} {c : Latched} (hf : Flying s i c) (h : exec i s = .next t) :
    WindowsInMemory Config.params c
      ∧ ∃ u, t = { finishCommand c (commandResult Config.params i c (s.source c)) s with units := u } := by
  obtain ⟨after, he⟩ := exec_eq_runCommand i
  rw [he, runCommand_flying hf] at h
  obtain ⟨hw, h⟩ := completeCommand_next h
  exact ⟨hw, _, h⟩

/-- The command in flight with its windows in memory always answers a next state (R106). -/
theorem exec_flying {i : Instr} {s : State} {c : Latched} (hf : Flying s i c) (hw : WindowsInMemory Config.params c) :
    ∃ u, exec i s
      = .next { finishCommand c (commandResult Config.params i c (s.source c)) s with units := u } := by
  obtain ⟨after, he⟩ := exec_eq_runCommand i
  rw [he, runCommand_flying hf, completeCommand_eq hw]
  exact ⟨_, rfl⟩

/-- The windows of a command that passed its issue checks are in memory (R102). -/
theorem windowsInMemory_of_checked {P : Params} {i : Instr} {c : Latched} (h : issueCheck P i c = none) :
    WindowsInMemory P c := by
  unfold issueCheck at h
  split_ifs at h with h1
  simp at h1
  simp [WindowsInMemory, h1]

/-- A reserved word at issue (R82). -/
theorem badCommand_refused {s : State} {w : Word} (h : s.inFlight = none) :
    RefusedAtIssue .badCmd w s (badCommand w s) := issueError_refused h

end Sys2Proof.Machine
end

