-- ==== Sys2Proof/Laws/Driver.lean ====
section
/-! SUPPORT. What a frame decode and the loop of `inverse` can do: the bytes a frame uses, the position and the output the
loop ends with, the partial output of an error. -/

namespace Sys2Proof.Machine

open Sys2Proof.Safety

/-- A frame that decodes uses its header and stays inside the source (R187). -/
theorem blockDec_used {maxBlock : Nat} {S : List Byte} {start : Nat} {Blk : List Byte} {used : Nat} {f : FrameInfo}
    (h : blockDec maxBlock S start = .ok (Blk, used, f)) : 8 ≤ used ∧ start + used ≤ S.length := by
  unfold blockDec at h
  dsimp only at h
  split_ifs at h <;> cases h <;> omega

/-- A frame decodes as it does at the start of the bytes that begin with it (R187). -/
theorem blockDec_drop (maxBlock : Nat) (S : List Byte) (start : Nat) :
    blockDec maxBlock S start = blockDec maxBlock (S.drop start) 0 := by
  have : ∀ k, rdBe32 (S.drop start) k = rdBe32 S (start + k) := by
    intro k
    unfold rdBe32
    simp only [List.getD, List.getElem?_drop, Nat.add_assoc]
  unfold blockDec
  simp only [this, List.length_drop, List.drop_drop, Nat.zero_add, Nat.sub_zero, Nat.add_zero]

/-- `inverse` keeps its output within the cap, and a finished one has read the whole source (R205, R207). -/
theorem inverseLoop_bounds {maxBlock : Nat} {S : List Byte} {cap : Nat} (fuel : Nat) (a : InverseAcc)
    (hpos : a.pos ≤ S.length) (hfuel : S.length ≤ a.pos + fuel) (hout : a.out.length ≤ cap) :
    (∀ b, inverseLoop maxBlock S cap fuel a = .done b → b.pos = S.length ∧ b.out.length ≤ cap)
    ∧ ∀ code b, inverseLoop maxBlock S cap fuel a = .failed code b → b.out.length ≤ cap := by
  induction fuel generalizing a with
  | zero =>
    refine ⟨fun b h => ?_, fun code b h => by cases h⟩
    cases h
    exact ⟨by omega, hout⟩
  | succ fuel ih =>
    unfold inverseLoop
    split
    · rename_i hp
      refine ⟨fun b h => ?_, fun code b h => by cases h⟩
      cases h
      exact ⟨hp, hout⟩
    · split
      · refine ⟨fun b h => (by cases h), fun code b h => ?_⟩
        cases h
        exact hout
      · rename_i Blk used f hd
        obtain ⟨h8, hu⟩ := blockDec_used hd
        split
        · refine ⟨fun b h => (by cases h), fun code b h => ?_⟩
          cases h
          exact hout
        · rename_i hc
          exact ih (a.append Blk used f) hu (by simp only [InverseAcc.append]; omega)
            (by simp only [InverseAcc.append, List.length_append]; omega)

theorem inverse_done {maxBlock : Nat} {S : List Byte} {cap : Nat} {a : InverseAcc}
    (h : inverse maxBlock S cap = .done a) : a.pos = S.length ∧ a.out.length ≤ cap :=
  (inverseLoop_bounds S.length {} (Nat.zero_le _) (by simp) (by simp)).1 a h

theorem inverse_failed {maxBlock : Nat} {S : List Byte} {cap : Nat} {code : ErrCode} {a : InverseAcc}
    (h : inverse maxBlock S cap = .failed code a) : a.out.length ≤ cap :=
  (inverseLoop_bounds S.length {} (Nat.zero_le _) (by simp) (by simp)).2 code a h

/-- The defined partial output of an error always fits in the destination window (R105, R207). -/
theorem commandResult_partial_fits {P : Params} {i : Instr} {c : Latched} {src : List Byte} {code : ErrCode}
    {info : Word} {p : Partial} (h : commandResult P i c src = .err code info p) : p.out.length ≤ c.dstCap.toNat := by
  cases i
  case bwtInv =>
    simp only [commandResult, runBwtInv] at h
    split at h <;> cases h
    simp
  case rleDec =>
    simp only [commandResult, runRleDec] at h
    split at h <;> cases h
    simp
  case blockDec =>
    simp only [commandResult, runBlockDec] at h
    split at h <;> cases h
    simp
  case inverse =>
    simp only [commandResult, runInverse] at h
    split at h <;> cases h
    rename_i hi
    exact inverse_failed hi
  all_goals exact absurd h (by simp [commandResult, runBwtFwd, runMtfEnc, runMtfDec, runRleEnc, runBlockEnc, runTransform])

end Sys2Proof.Machine
end

