-- ==== Sys2Proof/Laws/Rle.lean ====
section
/-! SUPPORT. What the serialisation of pairs, the search for a zero run and the expansion do. -/

namespace Sys2Proof.Machine

theorem ser_length (ps : List RlePair) : (ser ps).length = 2 * ps.length := by
  induction ps with
  | nil => rfl
  | cons p ps ih => simp [ser, ih]; omega

/-- No pair has run_length 0. -/
theorem firstZeroRun_none (X : List Byte) (off : Nat)
    (h : ∀ j, 2 * j + 1 < X.length → X.getD (2 * j + 1) 0 ≠ 0) : firstZeroRun off X = none := by
  fun_induction firstZeroRun off X with
  | case1 off v P => exact absurd rfl (h 0 (by simp))
  | case2 off v r P hr ih =>
    apply ih
    intro j hj
    have := h (j + 1) (by simp; omega)
    rw [show 2 * (j + 1) + 1 = (2 * j + 1) + 2 by omega] at this
    simpa using this
  | case3 => rfl
  | case4 => rfl

/-- Pair `j` is the lowest with run_length 0. -/
theorem firstZeroRun_some (X : List Byte) (off j : Nat) (h1 : 2 * j + 1 < X.length) (h : X.getD (2 * j + 1) 0 = 0)
    (hk : ∀ k, k < j → X.getD (2 * k + 1) 0 ≠ 0) : firstZeroRun off X = some (off + 2 * j) := by
  induction j generalizing X off with
  | zero =>
    match X, h1 with
    | a :: b :: X, _ => simp at h; subst h; simp [firstZeroRun]
    | [a], h => simp at h
  | succ j ih =>
    match X, h1 with
    | a :: b :: X, h1 =>
      have h0 := hk 0 (by omega)
      simp at h0
      rw [firstZeroRun, if_neg (show ¬ b = 0 from h0), ih X (off + 2) (by simp at h1; omega)]
      · congr 1; omega
      · rw [show 2 * (j + 1) + 1 = (2 * j + 1) + 2 by omega] at h; simpa using h
      · intro k hkj
        have := hk (k + 1) (by omega)
        rw [show 2 * (k + 1) + 1 = (2 * k + 1) + 2 by omega] at this; simpa using this
    | [a], h => simp at h

theorem sumRuns_eq_length (P : List Byte) : sumRuns P = (expandPairs P).length := by
  fun_induction sumRuns P with
  | case1 v r P ih => simp [expandPairs, ih]
  | case2 => rfl
  | case3 => rfl

end Sys2Proof.Machine
end

