-- ==== Sys2Proof/Laws/Counts.lean ====
section
/-! SUPPORT. Every length, index and counter a command reports is below 2^32 (R8), so that taking it to 32 bits for a register
or for the sequencer changes no value (log 18). -/

namespace Sys2Proof.Machine

open Sys2Proof.Safety

/-- The fields of a frame's report are below 2^32 (R8). -/
def FrameInfo.Fits (f : FrameInfo) : Prop := f.rawLen < 2 ^ 32 ∧ f.payloadLen < 2 ^ 32 ∧ f.header0 < 2 ^ 32

/-- The primary index of a block is at most its length (R133). -/
theorem bwtFwd_primary_le (B : List Byte) : (bwtFwd B).2 ≤ B.length := by
  unfold bwtFwd
  split
  · exact Nat.zero_le _
  · exact Nat.le_trans List.idxOf_le_length (by simp [rotationOrder, List.length_insertionSort])

/-- What block_enc reports of a block below 2^32 bytes fits, and it reports at most one mismatch (R184, R185). -/
theorem blockEnc_fits (Blk : List Byte) (m : Nat) (sv : Bool) (dbg : Word) (h : Blk.length < 2 ^ 32) :
    (blockEnc Blk m sv dbg).info.Fits ∧ (blockEnc Blk m sv dbg).valmis ≤ 1 := by
  have hp := bwtFwd_primary_le Blk
  unfold blockEnc FrameInfo.Fits
  dsimp only
  split_ifs <;> simp only [encodeRaw, encodeXform, sentinel] <;> omega

theorem rdBe32_lt (X : List Byte) (a : Nat) : rdBe32 X a < 2 ^ 32 := by
  have h := fun k => (X.getD k 0).isLt
  have h0 := h a
  have h1 := h (a + 1)
  have h2 := h (a + 2)
  have h3 := h (a + 3)
  unfold rdBe32
  omega

/-- What block_dec reports of a frame fits (R187). -/
theorem blockDec_fits {maxBlock : Nat} {S : List Byte} {start : Nat} {Blk : List Byte} {used : Nat} {f : FrameInfo}
    (h : blockDec maxBlock S start = .ok (Blk, used, f)) (hM : maxBlock < 2 ^ 32) : f.Fits := by
  have h0 := rdBe32_lt S start
  have h1 := rdBe32_lt S (start + 4)
  unfold blockDec at h
  dsimp only at h
  split_ifs at h <;> injection h with h <;> injection h with _ h <;> injection h with _ h <;> subst h <;>
    exact ⟨by dsimp only; omega, h1, h0⟩

/-- The partition has at most one block per byte, none longer than the source (R201). -/
theorem partitionBlocks_bounds (S : List Byte) (wholeFile : Bool) (bs : Nat) :
    (partitionBlocks S wholeFile bs).length ≤ S.length ∧ ∀ Blk ∈ partitionBlocks S wholeFile bs, Blk.length ≤ S.length := by
  unfold partitionBlocks
  split_ifs with h0 hw
  · simp
  · exact ⟨by simp; omega, by simp⟩
  · refine ⟨?_, ?_⟩
    · rw [List.length_map, List.length_range]
      rcases Nat.eq_zero_or_pos bs with rfl | hb
      · simp
      · refine Nat.le_of_lt_succ ((Nat.div_lt_iff_lt_mul hb).2 ?_)
        have := Nat.mul_le_mul_left S.length hb
        rw [Nat.succ_mul]
        omega
    · intro Blk hB
      obtain ⟨k, -, rfl⟩ := List.mem_map.1 hB
      simp

/-- The running values of `transform` fit: at most one XFORM frame and one mismatch per frame (R202). -/
structure TransformAcc.Fits (a : TransformAcc) (n : Nat) : Prop where
  blocks : a.blocks = n
  xblocks : a.xblocks ≤ n
  valmis : a.valmis ≤ n
  last : ∀ f, a.last = some f → f.Fits

theorem transformFold_fits (m : Nat) (sv : Bool) (dbg : Word) (blocks : List (List Byte))
    (h : ∀ Blk ∈ blocks, Blk.length < 2 ^ 32) (a : TransformAcc) (n : Nat) (ha : a.Fits n) :
    (blocks.foldl (transformBlock m sv dbg) a).Fits (n + blocks.length) := by
  induction blocks generalizing a n with
  | nil => exact ha
  | cons Blk blocks ih =>
    obtain ⟨hf, hv⟩ := blockEnc_fits Blk m sv dbg (h Blk List.mem_cons_self)
    have hx := ha.xblocks
    have hm := ha.valmis
    have := ih (fun B hB => h B (List.mem_cons_of_mem _ hB)) (transformBlock m sv dbg a Blk) (n + 1)
      { blocks := by simp only [transformBlock, ha.blocks]
        xblocks := by simp only [transformBlock]; split <;> omega
        valmis := by simp only [transformBlock]; omega
        last := by intro f hf'; cases hf'; exact hf }
    rw [List.length_cons, Nat.add_comm blocks.length 1, ← Nat.add_assoc]
    exact this

/-- What `transform` reports of a source below 2^32 bytes fits (R202). -/
theorem transform_fits (S : List Byte) (c : Latched) (h : S.length < 2 ^ 32) :
    ∃ n, n ≤ S.length ∧ (transform S c).Fits n := by
  obtain ⟨h1, h2⟩ := partitionBlocks_bounds S c.wholeFile c.blockSize.toNat
  refine ⟨_, h1, ?_⟩
  have := transformFold_fits c.maxRun.toNat c.selfValidate c.dbg _ (fun Blk hB => Nat.lt_of_le_of_lt (h2 Blk hB) h) {} 0
    ⟨rfl, Nat.le_refl _, Nat.le_refl _, fun f hf => by cases hf⟩
  rw [Nat.zero_add] at this
  exact this

/-- The running values of `inverse` fit: each frame takes at least 8 bytes of the source (R205). -/
structure InverseAcc.Fits (a : InverseAcc) (n : Nat) : Prop where
  pos : a.pos ≤ n
  blocks : 8 * a.blocks ≤ a.pos
  xblocks : a.xblocks ≤ a.blocks
  last : ∀ f, a.last = some f → f.Fits

theorem inverseLoop_fits {maxBlock : Nat} {S : List Byte} {cap : Nat} (hM : maxBlock < 2 ^ 32) (fuel : Nat)
    (a : InverseAcc) (ha : a.Fits S.length) : (inverseLoop maxBlock S cap fuel a).acc.Fits S.length := by
  induction fuel generalizing a with
  | zero => exact ha
  | succ fuel ih =>
    unfold inverseLoop
    split
    · exact ha
    · split
      · exact ha
      · rename_i Blk used f hd
        obtain ⟨h8, hu⟩ := blockDec_used hd
        have hb := ha.blocks
        have hx := ha.xblocks
        split
        · exact ha
        · exact ih _
            { pos := by simpa only [InverseAcc.append] using hu
              blocks := by simp only [InverseAcc.append]; omega
              xblocks := by simp only [InverseAcc.append]; split <;> omega
              last := by intro g hg; cases hg; exact blockDec_fits hd hM }

/-- What `inverse` ends with fits, done or failed (R205, R206). -/
theorem inverse_fits (maxBlock : Nat) (S : List Byte) (cap : Nat) (hM : maxBlock < 2 ^ 32) :
    (inverse maxBlock S cap).acc.Fits S.length :=
  inverseLoop_fits hM _ _ ⟨Nat.zero_le _, Nat.le_refl _, Nat.le_refl _, fun f hf => by cases hf⟩

theorem params_maxBlock_lt (P : Params) : P.maxBlock < 2 ^ 32 := by
  have := P.maxBlockLessOne.isLt
  unfold Params.maxBlock
  omega

/-- Every count and report of a successful command on a source below 2^32 bytes is below 2^32 (R8, R105). -/
theorem commandResult_fits {P : Params} {i : Instr} {c : Latched} {src : List Byte} {res : Result}
    (hs : src.length < 2 ^ 32) (h : commandResult P i c src = .ok res) :
    res.primary < 2 ^ 32 ∧ res.consumed < 2 ^ 32 ∧ res.blocks < 2 ^ 32 ∧ res.xblocks < 2 ^ 32 ∧ res.valmis < 2 ^ 32
      ∧ ∀ f, res.last = some f → f.Fits := by
  have hnone : ∀ f : FrameInfo, Option.none = some f → f.Fits := by intro f hf; cases hf
  have z : (0 : Nat) < 2 ^ 32 := by decide
  cases i
  case bwtFwd =>
    cases h
    exact ⟨Nat.lt_of_le_of_lt (bwtFwd_primary_le src) hs, hs, z, z, z, hnone⟩
  case bwtInv =>
    simp only [commandResult, runBwtInv] at h
    split at h <;> cases h
    exact ⟨z, hs, z, z, z, hnone⟩
  case mtfEnc => cases h; exact ⟨z, hs, z, z, z, hnone⟩
  case mtfDec => cases h; exact ⟨z, hs, z, z, z, hnone⟩
  case rleEnc => cases h; exact ⟨z, hs, z, z, z, hnone⟩
  case rleDec =>
    simp only [commandResult, runRleDec] at h
    split at h <;> cases h
    exact ⟨z, hs, z, z, z, hnone⟩
  case blockEnc =>
    obtain ⟨hf, hv⟩ := blockEnc_fits src c.maxRun.toNat c.selfValidate c.dbg hs
    simp only [commandResult, runBlockEnc] at h
    cases h
    exact ⟨z, hs, by simp, by dsimp only; split <;> omega, by dsimp only; omega,
      by intro f he; cases he; exact hf⟩
  case blockDec =>
    simp only [commandResult, runBlockDec] at h
    split at h <;> cases h
    rename_i hd
    have hu := (blockDec_used hd).2
    exact ⟨z, by dsimp only; omega, by simp, by dsimp only; split <;> omega, z,
      by intro f he; cases he; exact blockDec_fits hd (params_maxBlock_lt P)⟩
  case transform =>
    obtain ⟨n, hn, ht⟩ := transform_fits src c hs
    have hb := ht.blocks
    have hx := ht.xblocks
    have hv := ht.valmis
    cases h
    exact ⟨z, hs, by dsimp only; omega, by dsimp only; omega, by dsimp only; omega, ht.last⟩
  case inverse =>
    have hi := inverse_fits P.maxBlock src c.dstCap.toNat (params_maxBlock_lt P)
    simp only [commandResult, runInverse] at h
    split at h <;> cases h
    rename_i a hd
    rw [hd] at hi
    have hp := hi.pos
    have hb := hi.blocks
    have hx := hi.xblocks
    dsimp only [InverseEnd.acc] at hp hb hx
    exact ⟨z, hs, by dsimp only; omega, by dsimp only; omega, z, hi.last⟩

/-- Every count and report of the partial result of an error on a source below 2^32 bytes is below 2^32 (R8, R105). -/
theorem commandResult_partial_counts_fit {P : Params} {i : Instr} {c : Latched} {src : List Byte} {code : ErrCode}
    {info : Word} {p : Partial} (hs : src.length < 2 ^ 32) (h : commandResult P i c src = .err code info p) :
    p.consumed < 2 ^ 32 ∧ p.blocks < 2 ^ 32 ∧ p.xblocks < 2 ^ 32 ∧ ∀ f, p.last = some f → f.Fits := by
  have hnone : ∀ f : FrameInfo, Option.none = some f → f.Fits := by intro f hf; cases hf
  have z : (0 : Nat) < 2 ^ 32 := by decide
  cases i
  case bwtInv =>
    simp only [commandResult, runBwtInv] at h
    split at h <;> cases h
    exact ⟨z, z, z, hnone⟩
  case rleDec =>
    simp only [commandResult, runRleDec] at h
    split at h <;> cases h
    exact ⟨z, z, z, hnone⟩
  case blockDec =>
    simp only [commandResult, runBlockDec] at h
    split at h <;> cases h
    exact ⟨z, z, z, hnone⟩
  case inverse =>
    have hi := inverse_fits P.maxBlock src c.dstCap.toNat (params_maxBlock_lt P)
    simp only [commandResult, runInverse] at h
    split at h <;> cases h
    rename_i a hd
    rw [hd] at hi
    have hp := hi.pos
    have hb := hi.blocks
    have hx := hi.xblocks
    dsimp only [InverseEnd.acc] at hp hb hx
    exact ⟨by simp only [InverseAcc.part]; omega, by simp only [InverseAcc.part]; omega,
      by simp only [InverseAcc.part]; omega, hi.last⟩
  all_goals exact absurd h (by simp [commandResult, runBwtFwd, runMtfEnc, runMtfDec, runRleEnc, runBlockEnc, runTransform])

end Sys2Proof.Machine
end

