-- ==== Sys2Proof/Laws/Mtf.lean ====
section
/-! SUPPORT. The front list stays a permutation of the byte values, and every pass gives one value per input value. -/

namespace Sys2Proof.Machine

@[simp] theorem byteValues_length : byteValues.length = 256 := by simp [byteValues]

theorem mem_byteValues (b : Byte) : b ∈ byteValues := by
  unfold byteValues
  rw [List.mem_map]
  exact ⟨b.toNat, List.mem_range.2 b.isLt, by simp⟩

theorem byteValues_nodup : byteValues.Nodup := by
  unfold byteValues
  refine List.Nodup.map_on ?_ List.nodup_range
  intro x hx y hy h
  have := congrArg BitVec.toNat h
  rw [List.mem_range] at hx hy
  simpa [Nat.mod_eq_of_lt hx, Nat.mod_eq_of_lt hy] using this

@[simp] theorem mtfEncFrom_length (F X : List Byte) : (mtfEncFrom F X).1.length = X.length := by
  induction X generalizing F with
  | nil => rfl
  | cons b X ih => simp [mtfEncFrom, ih]

@[simp] theorem mtfDecFrom_length (F Y : List Byte) : (mtfDecFrom F Y).1.length = Y.length := by
  induction Y generalizing F with
  | nil => rfl
  | cons y Y ih => simp [mtfDecFrom, ih]

/-- A move keeps the front list a permutation (R45). -/
theorem mtfMove_perm (F : List Byte) (k : Nat) (h : k < F.length) : (mtfMove F k).Perm F := by
  unfold mtfMove
  have e : F.getD k 0 = F[k] := by simp [List.getD, List.getElem?_eq_getElem h]
  rw [e]
  have := List.take_append_drop k F
  conv => rhs; rw [← this, List.drop_eq_getElem_cons h]
  exact List.perm_middle.symm

/-- A decoder pass keeps the front list a permutation (R45). -/
theorem mtfDecFrom_perm (Y : List Byte) {F : List Byte} (h : F.Perm byteValues) :
    (mtfDecFrom F Y).2.Perm byteValues := by
  induction Y generalizing F with
  | nil => exact h
  | cons y Y ih =>
    exact ih ((mtfMove_perm F _ (by rw [h.length_eq, byteValues_length]; exact y.isLt)).trans h)

/-- An encoder pass keeps the front list a permutation (R45). -/
theorem mtfEncFrom_perm (X : List Byte) {F : List Byte} (h : F.Perm byteValues) :
    (mtfEncFrom F X).2.Perm byteValues := by
  induction X generalizing F with
  | nil => exact h
  | cons b X ih =>
    exact ih ((mtfMove_perm F _ (List.idxOf_lt_length_iff.2 (h.mem_iff.2 (mem_byteValues b)))).trans h)

end Sys2Proof.Machine
end

