-- ==== Sys2Proof/Laws/PerInstr.lean ====
section
/-! SUPPORT. Statements made per instruction: the command word of each command is well-formed and of the one format. -/

namespace Sys2Proof.Laws.CommandWord

/-- The command word of `i` is not reserved, and holds the opcode of `i` below a zero RSVD field (R80, R82). -/
def Statement (i : Instr) : Prop :=
  i.wellFormed = true ∧ wordWellFormed (encode i) = true ∧ opcodeField (encode i) = i.opcode ∧ rsvdField (encode i) = 0

theorem bwtFwd : Statement .bwtFwd := by unfold Statement; decide
theorem bwtInv : Statement .bwtInv := by unfold Statement; decide
theorem mtfEnc : Statement .mtfEnc := by unfold Statement; decide
theorem mtfDec : Statement .mtfDec := by unfold Statement; decide
theorem rleEnc : Statement .rleEnc := by unfold Statement; decide
theorem rleDec : Statement .rleDec := by unfold Statement; decide
theorem blockEnc : Statement .blockEnc := by unfold Statement; decide
theorem blockDec : Statement .blockDec := by unfold Statement; decide
theorem transform : Statement .transform := by unfold Statement; decide
theorem inverse : Statement .inverse := by unfold Statement; decide

end Sys2Proof.Laws.CommandWord
end

