-- ==== Sys2Proof/Laws/Step.lean ====
section
/-! SUPPORT. What one step can do, said once: it leaves the device as it was, writes one register, stores one byte, completes
the command in flight, or changes RST. -/

namespace Sys2Proof.Machine

/-- The device is the same: only the host's program and view, the schedule, the draws and newly recorded faults may
differ. -/
structure SameDevice (s t : State) : Prop where
  regs : t.regs = s.regs
  mem : t.mem = s.mem
  inFlight : t.inFlight = s.inFlight
  units : t.units = s.units
  rst : t.rst = s.rst
  faults : ∀ e ∈ s.faults, e ∈ t.faults

theorem SameDevice.refl (s : State) : SameDevice s s := ⟨rfl, rfl, rfl, rfl, rfl, fun _ h => h⟩

theorem SameDevice.trans {s t u : State} (h : SameDevice s t) (g : SameDevice t u) : SameDevice s u :=
  ⟨g.regs.trans h.regs, g.mem.trans h.mem, g.inFlight.trans h.inFlight, g.units.trans h.units, g.rst.trans h.rst,
    fun e he => g.faults e (h.faults e he)⟩

/-- The host's next statement writes `v` to the register at `off` (R93, R61). -/
def HostWrites (P : Params) (s : State) (off : Nat) (v : Word) : Prop :=
  ∃ rest, s.host = .write off 32 v :: rest ∨ ∃ a, csrOffset P a = some off ∧ s.host = .busWrite a 32 v :: rest

/-- What a move can do; `s` is the state before it, `t` after. -/
inductive Transition (P : Params) (s t : State) : Prop where
  /-- Nothing of the device changes. -/
  | quiet (h : SameDevice s t)
  /-- A register write reaches the device, which is not held in reset. -/
  | write (r : Reg) (v : Word) (s0 : State) (h : SameDevice s s0) (hw : HostWrites P s r.offset v) (hr : s.rst = false)
      (he : writeReg P r v s0 = .next t)
  /-- The host stores one byte. -/
  | store (a : Nat) (b : Byte) (s0 : State) (h : SameDevice s s0) (ha : a < P.memSize)
      (he : t = { s0 with mem := writeByte s0.mem a b })
  /-- The command in flight takes its completion step. -/
  | engine (f : InFlight) (s0 : State) (h : SameDevice s s0) (hf : s.inFlight = some f)
      (he : exec f.command s0 = .next t)
  /-- RST is asserted, or held and released. -/
  | reset (s0 : State) (h : SameDevice s s0) (he : t = rstAssert s0 ∨ t = rstRelease s0)

theorem Reg.ofOffset_eq {off : Nat} {r : Reg} (h : Reg.ofOffset off = some r) : off = r.offset := by
  unfold Reg.ofOffset at h
  split at h <;> cases h <;> rfl

theorem accessSupported_width {off width : Nat} (h : accessSupported off width = true) : width = 32 := by
  simp only [accessSupported, Bool.and_eq_true, beq_iff_eq] at h
  exact h.1.1

theorem sameDevice_expectThat (b : Bool) (s : State) : SameDevice s (expectThat b s) := by
  unfold expectThat; split
  · exact .refl s
  · exact ⟨rfl, rfl, rfl, rfl, rfl, fun _ h => h⟩

theorem sameDevice_readReg (P : Params) (r : Reg) (s : State) : SameDevice s (readReg P r s) :=
  ⟨by simp, by simp, by simp, by simp, by simp, by simp⟩

theorem sameDevice_portRead (P : Params) (off width : Nat) (s : State) : SameDevice s (portRead P off width s) := by
  unfold portRead
  split
  · split
    · exact sameDevice_readReg P _ s
    · exact ⟨rfl, rfl, rfl, rfl, rfl, fun _ h => h⟩
  · exact ⟨rfl, rfl, rfl, rfl, rfl, fun e h => List.mem_append_left _ h⟩

theorem sameDevice_busRead (P : Params) (a : Word) (width : Nat) (s : State) : SameDevice s (busRead P a width s) := by
  unfold busRead
  split
  · exact sameDevice_portRead P _ width s
  · exact .refl s

/-- What a register write at an offset can do. -/
theorem portWrite_cases {P : Params} {off width : Nat} {v : Word} {s t : State} (h : portWrite P off width v s = .next t) :
    SameDevice s t ∨ ∃ r, off = r.offset ∧ width = 32 ∧ s.rst = false ∧ writeReg P r v s = .next t := by
  unfold portWrite at h
  split at h
  · rename_i hacc
    split at h
    · cases h; exact .inl (.refl s)
    · rename_i hr
      split at h
      · rename_i r hro
        exact .inr ⟨r, Reg.ofOffset_eq hro, accessSupported_width hacc, by simpa using hr, h⟩
      · cases h; exact .inl (.refl s)
  · cases h
    exact .inl ⟨rfl, rfl, rfl, rfl, rfl, fun e he => List.mem_append_left _ he⟩

theorem hostStore_cases {P : Params} {a : Nat} {b : Byte} {s t : State} (h : hostStore P a b s = .next t) :
    a < P.memSize ∧ t = { s with mem := writeByte s.mem a b } := by
  unfold hostStore at h
  split at h
  · cases h
  · split at h
    · cases h
    · cases h; exact ⟨by omega, rfl⟩

theorem hostLoad_cases {P : Params} {a : Nat} {s t : State} (h : hostLoad P a s = .next t) : SameDevice s t := by
  unfold hostLoad at h
  split at h
  · cases h
  · split at h
    · cases h
    · cases h; exact ⟨rfl, rfl, rfl, rfl, rfl, fun _ h => h⟩

/-- What the host's move can do. -/
theorem hostMove_cases {P : Params} {s t : State} (h : hostMove P s = .next t) : Transition P s t := by
  have hq : ∀ rest, SameDevice s { s with host := rest } := fun _ => ⟨rfl, rfl, rfl, rfl, rfl, fun _ h => h⟩
  unfold hostMove at h
  split at h
  · cases h; exact .quiet (.refl s)
  · rename_i st rest hh
    cases st with
    | write off width v =>
      rcases portWrite_cases h with h | ⟨r, rfl, rfl, hr, he⟩
      · exact .quiet ((hq rest).trans h)
      · exact .write r v _ (hq rest) ⟨rest, .inl hh⟩ hr he
    | read off width => cases h; exact .quiet ((hq rest).trans (sameDevice_portRead P off width _))
    | busWrite a width v =>
      simp only [runStmt, busWrite] at h
      split at h
      · rename_i off hoff
        rcases portWrite_cases h with h | ⟨r, rfl, rfl, hr, he⟩
        · exact .quiet ((hq rest).trans h)
        · exact .write r v _ (hq rest) ⟨rest, .inr ⟨a, hoff, hh⟩⟩ hr he
      · cases h; exact .quiet (hq rest)
    | busRead a width => cases h; exact .quiet ((hq rest).trans (sameDevice_busRead P a width _))
    | expect r v =>
      cases h
      exact .quiet (((hq rest).trans (sameDevice_readReg P r _)).trans (sameDevice_expectThat _ _))
    | poll r m v =>
      simp only [runStmt] at h
      split at h
      · cases h
        exact .quiet ((sameDevice_readReg P r s).trans ⟨rfl, rfl, rfl, rfl, rfl, fun _ h => h⟩)
      · cases h; exact .quiet (sameDevice_readReg P r s)
    | store a bs =>
      cases bs with
      | nil => cases h; exact .quiet (hq rest)
      | cons b bs =>
        obtain ⟨ha, rfl⟩ := hostStore_cases h
        exact .store a b _ (hq _) ha rfl
    | check a bs =>
      cases bs with
      | nil => cases h; exact .quiet (hq rest)
      | cons b bs =>
        simp only [runStmt] at h
        split at h
        · rename_i s1 hl
          cases h
          exact .quiet (((hq _).trans (hostLoad_cases hl)).trans (sameDevice_expectThat _ _))
        · cases h
        · cases h

/-- What the engine's move can do. -/
theorem engineMove_cases {P : Params} {s t : State} (h : engineMove s = .next t) : Transition P s t := by
  unfold engineMove at h
  split at h
  · cases h; exact .quiet (.refl s)
  · rename_i f hf
    exact .engine f s (.refl s) hf h

/-- Taking the move off the schedule changes nothing a transition sees. -/
theorem Transition.of_schedule {P : Params} {s t : State} {ms : List Move}
    (h : Transition P { s with schedule := ms } t) : Transition P s t := by
  have hq : SameDevice s { s with schedule := ms } := ⟨rfl, rfl, rfl, rfl, rfl, fun _ h => h⟩
  cases h with
  | quiet h => exact .quiet (hq.trans h)
  | write r v s0 h hw hr he => exact .write r v s0 (hq.trans h) hw hr he
  | store a b s0 h ha he => exact .store a b s0 (hq.trans h) ha he
  | engine f s0 h hf he => exact .engine f s0 (hq.trans h) hf he
  | reset s0 h he => exact .reset s0 (hq.trans h) he

/-- What a step can do. -/
theorem step_cases {s t : State} (h : step s = .next t) : Transition Config.params s t := by
  unfold step at h
  split at h
  · rename_i m ms hs
    refine .of_schedule (ms := ms) ?_
    cases m with
    | host => exact hostMove_cases h
    | engine => exact engineMove_cases h
    | rstAssert => cases h; exact .reset _ (.refl _) (.inl rfl)
    | rstRelease => cases h; exact .reset _ (.refl _) (.inr rfl)
  · split at h
    · exact engineMove_cases h
    · exact hostMove_cases h

end Sys2Proof.Machine
end

