-- ==== Sys2Proof/Tests/Slice0.lean ====
section
/-! SUPPORT. Tests: the ill-formed words, the vectors of 95_test_vectors.md, single steps, and for each statement with hypotheses a
witness that meets them. -/

namespace Sys2Proof.Tests

-- One theorem after the other: run side by side, the kernel evaluations below each hold a thread that waits for the others.
set_option Elab.async false

open Sys2Proof.Machine

/-! Well-formedness smoke: one ill-formed word for each check (R80, R82) -/

theorem test_wf_rsvd : rsvdIsZero 0x101 = false := by decide
theorem test_wf_opcode_zero : opcodeNotZero 0x00 = false := by decide
theorem test_wf_opcode_reserved : opcodeBelowReserved 0x0B = false := by decide
theorem test_wf_word : wordWellFormed 0x1FF = false := by decide
theorem test_wf_instr : Instr.wellFormed .mtfEnc = true := by decide

/-! A device with the parameters of 95_test_vectors.md, a command in flight on `src` at 0x1000, output at 0x8000 -/

def testParams : Params where
  maxBlockLessOne := 0xFFFFFF
  memSizeLessOne := 0xFFFF
  saAccel := false
  csrPage := 0x4000

/-- MAX_BLOCK = 15, of V-K14. -/
def smallParams : Params := { testParams with maxBlockLessOne := 14 }

/-- The registers of a command vector: the windows set, the rest at reset. -/
def vectorRegs (n : Nat) : Regs :=
  { Regs.reset with srcAddr := 0x1000, srcLen := u32 n, dstAddr := 0x8000, dstCap := 4096 }

/-- The reset state with `src` at 0x1000 and the command `i` in flight, its registers changed by `f` before the issue. -/
def flight (i : Instr) (src : List Byte) (f : Regs → Regs := id) : State :=
  { State.reset with
    mem := writeBytes [] 0x1000 src
    regs := { (f (vectorRegs src.length)) with status := 0x1 }
    inFlight := some { command := i, cfg := (f (vectorRegs src.length)).latch } }

/-- The first `n` destination bytes of an outcome. -/
def dest (n : Nat) : Host.Outcome State Fault Refusal → List Byte
  | .next t => readBytes t.mem 0x8000 n
  | .fault _ => []
  | .refused _ => []

/-- The registers of an outcome. -/
def regsOf : Host.Outcome State Fault Refusal → Option Regs
  | .next t => some t.regs
  | .fault _ => none
  | .refused _ => none

/-! The command vectors of 95_test_vectors.md, part 2: the bytes, then the registers -/

/-- V-B3 -/
theorem test_bwt_fwd_mississippi :
    dest 11 (execBwtFwdWith testParams (flight .bwtFwd [0x6D, 0x69, 0x73, 0x73, 0x69, 0x73, 0x73, 0x69, 0x70, 0x70, 0x69])) = [0x70, 0x73, 0x73, 0x6D, 0x69, 0x70, 0x69, 0x73, 0x73, 0x69, 0x69] := by decide +kernel

/-- V-B1 -/
theorem test_bwt_fwd_primary :
    (regsOf (execBwtFwdWith testParams (flight .bwtFwd [0x62, 0x61, 0x6E, 0x61, 0x6E, 0x61]))).map (fun r => (r.resPrimary, r.resLen, r.resConsumed, r.status)) = some (3, 6, 6, 0x2) := by decide +kernel

/-- V-B13 -/
theorem test_bwt_inv_banana :
    dest 6 (execBwtInvWith testParams (flight .bwtInv [0x6E, 0x6E, 0x62, 0x61, 0x61, 0x61] (fun r => { r with arg0 := 3 }))) = [0x62, 0x61, 0x6E, 0x61, 0x6E, 0x61] := by decide +kernel

/-- V-B16 -/
theorem test_bwt_inv_bad_index :
    (regsOf (execBwtInvWith testParams (flight .bwtInv [0x6E, 0x6E, 0x62, 0x61, 0x61, 0x61] (fun r => { r with arg0 := 6 })))).map (fun r => (r.status, r.errInfo, r.resLen)) = some (0x206, 6, 0) := by decide +kernel

/-- V-M6 -/
theorem test_mtf_enc_abcabc :
    dest 6 (execMtfEncWith testParams (flight .mtfEnc [0x61, 0x62, 0x63, 0x61, 0x62, 0x63])) = [0x61, 0x62, 0x63, 0x02, 0x02, 0x02] := by decide +kernel

/-- V-M5 -/
theorem test_mtf_enc_status :
    (regsOf (execMtfEncWith testParams (flight .mtfEnc [0xFF, 0xFF, 0x00]))).map (fun r => (r.status, r.resLen, r.resConsumed)) = some (0x2, 3, 3) := by decide +kernel

/-- V-M12 -/
theorem test_mtf_dec_alternating :
    dest 4 (execMtfDecWith testParams (flight .mtfDec [0x05, 0x05, 0x05, 0x05])) = [0x05, 0x04, 0x03, 0x02] := by decide +kernel

/-- V-M10 -/
theorem test_mtf_dec_ff :
    dest 1 (execMtfDecWith testParams (flight .mtfDec [0xFF])) = [0xFF] := by decide +kernel

/-- V-R4 -/
theorem test_rle_enc_cap :
    dest 6 (execRleEncWith testParams (flight .rleEnc (List.replicate 7 0x07) (fun r => { r with maxRun := 3 }))) = [0x07, 0x03, 0x07, 0x03, 0x07, 0x01] := by decide +kernel

/-- V-R2 -/
theorem test_rle_enc_split :
    dest 4 (execRleEncWith testParams (flight .rleEnc (List.replicate 256 0x00))) = [0x00, 0xFF, 0x00, 0x01] := by decide +kernel

/-- V-R9 -/
theorem test_rle_dec_pairs :
    dest 6 (execRleDecWith testParams (flight .rleDec [0x6E, 0x01, 0x00, 0x01, 0x63, 0x02, 0x00, 0x02])) = [0x6E, 0x00, 0x63, 0x63, 0x00, 0x00] := by decide +kernel

/-- V-R15 -/
theorem test_rle_dec_odd_first :
    (regsOf (execRleDecWith testParams (flight .rleDec [0x41, 0x00, 0x42]))).map (fun r => (r.status, r.errInfo, r.resLen)) = some (0x506, 2, 0) := by decide +kernel

/-- V-C3 -/
theorem test_block_enc_xform :
    dest 12 (execBlockEncWith testParams (flight .blockEnc (List.replicate 16 0x41))) = [0x00, 0x00, 0x00, 0x00, 0x00, 0x00, 0x00, 0x04, 0x41, 0x01, 0x00, 0x0F] := by decide +kernel

/-- V-C9 -/
theorem test_block_enc_validated :
    (regsOf (execBlockEncWith testParams (flight .blockEnc (List.replicate 16 0x41) (fun r => { r with dbg := 1 })))).map (fun r => (r.status, r.resLen, r.lastMode, r.resValMismatches, r.resXformBlocks)) = some (0xA, 24, 2, 1, 0) := by decide +kernel

/-- V-K2 -/
theorem test_block_dec_xform :
    dest 16 (execBlockDecWith testParams (flight .blockDec [0x00, 0x00, 0x00, 0x00, 0x00, 0x00, 0x00, 0x04, 0x41, 0x01, 0x00, 0x0F])) = List.replicate 16 0x41 := by decide +kernel

/-- V-K14 -/
theorem test_block_dec_too_large :
    (regsOf (execBlockDecWith smallParams (flight .blockDec [0x00, 0x00, 0x00, 0x00, 0x00, 0x00, 0x00, 0x04, 0x41, 0x01, 0x00, 0x0F]))).map (fun r => (r.status, r.errInfo, r.lastMode)) = some (0x606, 0, 0) := by decide +kernel

/-- V-D1 -/
theorem test_transform_mixed :
    dest 22 (execTransformWith testParams (flight .transform [0x61, 0x61, 0x61, 0x61, 0x61, 0x61, 0x61, 0x61, 0x61, 0x62] (fun r => { r with blockSize := 8 }))) = [0x00, 0x00, 0x00, 0x00, 0x00, 0x00, 0x00, 0x04, 0x61, 0x01, 0x00, 0x07, 0xFF, 0xFF, 0xFF, 0xFF, 0x00, 0x00, 0x00, 0x02, 0x61, 0x62] := by decide +kernel

/-- V-D10 -/
theorem test_transform_overflow :
    (regsOf (execTransformWith testParams (flight .transform [0x61, 0x61, 0x61, 0x61, 0x61, 0x61, 0x61, 0x61, 0x61, 0x62] (fun r => { r with blockSize := 8, dstCap := 21 })))).map (fun r => (r.status, r.errInfo, r.resLen, r.resBlocks)) = some (0x706, 22, 0, 0) := by decide +kernel

/-- V-D13 -/
theorem test_inverse_container :
    dest 10 (execInverseWith testParams (flight .inverse [0x00, 0x00, 0x00, 0x00, 0x00, 0x00, 0x00, 0x04, 0x61, 0x01, 0x00, 0x07, 0xFF, 0xFF, 0xFF, 0xFF, 0x00, 0x00, 0x00, 0x02, 0x61, 0x62])) = [0x61, 0x61, 0x61, 0x61, 0x61, 0x61, 0x61, 0x61, 0x61, 0x62] := by decide +kernel

/-- V-D15 -/
theorem test_inverse_partial :
    (regsOf (execInverseWith testParams (flight .inverse [0x00, 0x00, 0x00, 0x00, 0x00, 0x00, 0x00, 0x04, 0x61, 0x01, 0x00, 0x07, 0xFF, 0xFF, 0xFF, 0xFF, 0x00, 0x00, 0x00, 0x02, 0x61, 0x62] (fun r => { r with dstCap := 9 })))).map (fun r => (r.status, r.errInfo, r.resLen, r.resConsumed, r.resBlocks, r.resXformBlocks, r.lastMode)) = some (0x706, 12, 8, 12, 1, 1, 3) := by decide +kernel

/-! Lifecycle, registers and reset (V-L rows) -/

/-- V-L5: RSVD not 0. -/
theorem test_bad_cmd : (regsOf (cmdWrite 0x101 State.reset)).map (fun r => (r.status, r.errInfo)) = some (0x906, 0x101) := by
  decide +kernel

/-- V-L7 and V-L8: overlapping windows are refused, touching windows are not. -/
theorem test_overlap :
    issueCheck testParams .mtfEnc ({ Regs.reset with srcAddr := 0x100, srcLen := 16, dstAddr := 0x108, dstCap := 16 }).latch
      = some (.badRegion, 0)
    ∧ issueCheck testParams .mtfEnc
        ({ Regs.reset with srcAddr := 0x100, srcLen := 16, dstAddr := 0x110, dstCap := 16 }).latch = none := by
  decide +kernel

/-- V-L9, V-L10, V-L11 and V-L12: the end of data memory, the wrap past 2^32, the empty window. -/
theorem test_window_bounds :
    windowValid testParams 0xFFF0 0x11 = false ∧ windowValid testParams 0xFFF0 0x10 = true
    ∧ windowValid testParams 0xFFFFFFFF 2 = false ∧ windowValid testParams 0xFFFFFFFF 0 = true := by decide +kernel

/-- V-D8: MAX_RUN is checked before BLOCK_SIZE; V-R8: 256 is outside 1..255. -/
theorem test_max_run :
    issueCheck testParams .transform ({ Regs.reset with maxRun := 0 }).latch = some (.badMaxRun, 0)
    ∧ issueCheck testParams .rleEnc ({ Regs.reset with maxRun := 256 }).latch = some (.badMaxRun, 256) := by decide +kernel

/-- V-L16: BLOCK_TOO_LARGE at issue, with MAX_BLOCK = 15 here. -/
theorem test_block_too_large :
    issueCheck smallParams .bwtFwd ({ Regs.reset with srcLen := 16 }).latch = some (.blockTooLarge, 16) := by decide +kernel

/-- V-L19: a CMD write while BUSY sets CMD_OVR and nothing else. -/
theorem test_lost_command :
    cmdWrite 0x3 (flight .bwtFwd [0x62]) = .next { flight .bwtFwd [0x62] with
      regs := { (flight .bwtFwd [0x62]).regs with status := 0x11 } } := by rfl

/-- V-L24 and V-L25: clearing DONE keeps ERR_CODE, clearing ERR clears it. -/
theorem test_status_write : statusWrite 0x2 0x906 = 0x904 ∧ statusWrite 0x4 0x904 = 0x0 := by decide

/-- V-L28 and V-L29: reserved bits of CTRL and DBG read 0. -/
theorem test_reserved_bits : ctrlStored 0xFFFFFCFF = 0x7 ∧ dbgStored 0xFFFFFFFF = 0x3 := by decide

/-- V-L30: a soft reset ignores bits 2:0 of the written value. -/
theorem test_soft_reset :
    (ctrlWrite testParams 0x206 { State.reset with regs := { Regs.reset with ctrl := 6, blockSize := 77 } }).regs = Regs.reset := by
  decide +kernel

/-- V-L21: the abort of a command in flight. -/
theorem test_abort :
    let r := (ctrlWrite testParams 0x101 (flight .bwtFwd [0x62])).regs
    (r.status, r.errInfo, r.resLen, r.ctrl) = (0xA06, 0, 0, 0x1) := by decide +kernel

/-- V-L1: ID, VERSION, CAP and MAX_BLOCK. -/
theorem test_constants :
    Regs.reset.value testParams .id = 0x42544531 ∧ Regs.reset.value testParams .version = 1
    ∧ Regs.reset.value testParams .cap = 0 ∧ Regs.reset.value testParams .maxBlock = 0x1000000 := by decide +kernel

/-- R67: a 16-bit access is recorded and changes nothing else. -/
theorem test_bus_fault :
    portWrite testParams 0x10 16 0 State.reset = .next { State.reset with faults := [.hostBusFault 0x10 16] } := by rfl

/-- R72: the host's write to the destination window of a command in flight is a window race. -/
theorem test_window_race :
    (match hostStore testParams 0x8000 0 (flight .bwtFwd [0x62]) with | .fault e => some e | _ => none)
      = some (.hostWindowRace 0x8000) := by decide +kernel

/-- R250: a register write while RST is asserted is ignored. -/
theorem test_rst_ignores_writes :
    portWrite testParams 0x14 32 77 (rstAssert State.reset) = .next (rstAssert State.reset) := by rfl

/-! The step from reset on a placed command word (R253): nine commands go in flight, TRANSFORM is refused -/

/-- The command in flight after one step from reset with word `w` placed. -/
def placed (w : Nat) : Option Instr :=
  match step (State.reset.withFetchWord 32 w) with
  | .next t => t.inFlight.map (fun f => f.command)
  | .fault _ => none
  | .refused _ => none

theorem test_step_bwt_fwd : placed 0x1 = some .bwtFwd := by decide +kernel
theorem test_step_bwt_inv : placed 0x2 = some .bwtInv := by decide +kernel
theorem test_step_mtf_enc : placed 0x3 = some .mtfEnc := by decide +kernel
theorem test_step_mtf_dec : placed 0x4 = some .mtfDec := by decide +kernel
theorem test_step_rle_enc : placed 0x5 = some .rleEnc := by decide +kernel
theorem test_step_rle_dec : placed 0x6 = some .rleDec := by decide +kernel
theorem test_step_block_enc : placed 0x7 = some .blockEnc := by decide +kernel
theorem test_step_block_dec : placed 0x8 = some .blockDec := by decide +kernel
theorem test_step_inverse : placed 0xA = some .inverse := by decide +kernel

/-- V-L31: TRANSFORM from the reset state is refused with UNSUPPORTED_BLOCK_SIZE. -/
theorem test_step_transform :
    (regsOf (step (State.reset.withFetchWord 32 0x9))).map (fun r => (r.status, r.errInfo)) = some (0x306, 0) := by
  decide +kernel

/-- The table's words decode to the table's rows. -/
theorem test_table_words :
    decodeTableWord 32 0x1 = some .bwtFwd ∧ decodeTableWord 32 0xA = some .inverse ∧ decodeTableWord 32 0xB = none := by
  decide +kernel


/-! Witnesses: for each statement with hypotheses, a concrete state and operands that meet them together.

The parameters of the device at hand have no body (log 1), so of MEM_SIZE only 1 ≤ MEM_SIZE is known. A witness whose windows
need more than one byte takes `hP`, that MEM_SIZE is at least the 0x10000 of 95_test_vectors.md. -/

open Sys2Proof.Safety

/-- What a witness with the windows of `flight` takes: MEM_SIZE is at least that of 95_test_vectors.md. -/
abbrev RoomForFlight : Prop := 0x10000 ≤ Config.params.memSize

/-- The latched configuration of `flight`. -/
def flightCfg (n : Nat) (f : Regs → Regs := id) : Latched := (f (vectorRegs n)).latch

theorem flight_flying (i : Instr) (src : List Byte) (f : Regs → Regs) :
    Flying (flight i src f) i (flightCfg src.length f) := rfl

theorem flight_windows {c : Latched} (hP : RoomForFlight) (hs : c.srcAddr.toNat + c.srcLen.toNat ≤ 0x10000)
    (hd : c.dstAddr.toNat + c.dstCap.toNat ≤ 0x10000) : WindowsInMemory Config.params c := by
  unfold WindowsInMemory Latched.srcValid Latched.dstValid windowValid
  exact ⟨by simp; omega, by simp; omega⟩

/-- A one-byte source at address 0 and a destination of `cap` ≤ 1 bytes there: valid windows in any data memory. -/
def tinyCfg (cap : Word) (arg0 : Word := 0) : Latched :=
  { Regs.reset.latch with srcLen := 1, dstCap := cap, arg0 := arg0 }

/-- `i` in flight on the one byte 0x41. -/
def tiny (i : Instr) (c : Latched) : State :=
  { State.reset with mem := [(0, 0x41)], regs := { Regs.reset with status := 0x1 },
                     inFlight := some { command := i, cfg := c } }

theorem tiny_windows {c : Latched} (hs : c.srcAddr.toNat + c.srcLen.toNat ≤ 1)
    (hd : c.dstAddr.toNat + c.dstCap.toNat ≤ 1) : WindowsInMemory Config.params c := by
  have : 1 ≤ Config.params.memSize := by unfold Params.memSize; omega
  unfold WindowsInMemory Latched.srcValid Latched.dstValid windowValid
  exact ⟨by simp; omega, by simp; omega⟩

/-- `i` in flight on empty windows. -/
def emptyFlight (i : Instr) : State :=
  { State.reset with regs := { Regs.reset with status := 0x1 }
                     inFlight := some { command := i, cfg := Regs.reset.latch } }

theorem emptyFlight_inv : Inv Config.params (emptyFlight .bwtFwd) where
  memWf := by decide
  memRange := by intro x h; cases h
  busy := rfl
  flight := by intro f hf; cases hf; exact ⟨rfl, rfl, rfl, rfl, rfl⟩
  regs := ⟨by decide, by decide, by decide, fun _ => rfl, by decide, .inl rfl⟩
  front := List.Perm.refl _
  run := by intro v r h; cases h
  reset := by intro h; cases h

/-- The invariant while RST is asserted. -/
theorem rstReset_inv : Inv testParams (rstAssert State.reset) where
  memWf := by decide
  memRange := by intro x h; cases h
  busy := rfl
  flight := by intro f hf; cases hf
  regs := ⟨by decide, by decide, by decide, fun _ => rfl, by decide, .inl rfl⟩
  front := List.Perm.refl _
  run := by intro v r h; cases h
  reset := fun _ => ⟨rfl, rfl⟩

/-- The reset state with a host program. -/
def hostState (p : List HostStmt) (sched : List Move := []) : State := { State.reset with host := p, schedule := sched }

theorem witness_StepRunsTheDecodedCommand :
    (hostState [wr .cmd 0x3]).host = .write 0x1C 32 0x3 :: [] ∧ (hostState [wr .cmd 0x3]).rst = false
    ∧ statusBusy (hostState [wr .cmd 0x3]).regs.status = false ∧ decodeWord 0x3 = .ok .mtfEnc
    ∧ (hostState [wr .cmd 0x3]).schedule = [] ∧ (hostState [wr .cmd 0x3]).inFlight = none
    ∧ (hostState [wr .cmd 0x3] [.host]).schedule = .host :: [] := by decide

theorem witness_StepRunsTheDecodedCommand_engine :
    (tiny .mtfEnc (tinyCfg 1)).inFlight = some { command := .mtfEnc, cfg := tinyCfg 1 }
    ∧ (tiny .mtfEnc (tinyCfg 1)).schedule = []
    ∧ { tiny .mtfEnc (tinyCfg 1) with schedule := [.engine] }.schedule = .engine :: [] := by decide

theorem witness_CommandInFlightCompletes :
    Inv Config.params (emptyFlight .bwtFwd) ∧ (emptyFlight .bwtFwd).schedule = []
    ∧ (emptyFlight .bwtFwd).inFlight.isSome = true := ⟨emptyFlight_inv, rfl, rfl⟩

theorem witness_EveryStepKeepsTheInvariant :
    Inv Config.params (emptyFlight .bwtFwd) ∧ ∃ t, step (emptyFlight .bwtFwd) = .next t := ⟨emptyFlight_inv, _, rfl⟩

theorem witness_OnlyACmdWriteStartsACommand :
    ∃ t f, step (hostState [wr .cmd 0x3]) = .next t ∧ (hostState [wr .cmd 0x3]).inFlight = none
      ∧ t.inFlight = some f := ⟨_, _, rfl, rfl, rfl⟩

theorem witness_SelfValidationIsDisabledOnlyByAHostWrite :
    ∃ t, step (hostState [wr .ctrl 0x0]) = .next t ∧ ctrlSelfValidate (hostState [wr .ctrl 0x0]).regs.ctrl = true
      ∧ ctrlSelfValidate t.regs.ctrl = false := ⟨_, rfl, rfl, rfl⟩

/-- The five outcomes of the checks, each at a boundary value: a window one byte past MEM_SIZE, MAX_RUN 256, BLOCK_SIZE
MAX_BLOCK + 1, SRC_LEN MAX_BLOCK + 1, and all at their limits. -/
theorem witness_IssueChecksFollowTheirOrder :
    issueCheck smallParams .transform { Regs.reset.latch with srcAddr := 0xFFF0, srcLen := 0x11, maxRun := 0 }
      = some (.badRegion, 0)
    ∧ issueCheck smallParams .transform { Regs.reset.latch with srcAddr := 0xFFF0, srcLen := 0x10, maxRun := 256 }
      = some (.badMaxRun, 256)
    ∧ issueCheck smallParams .transform { Regs.reset.latch with srcLen := 0x10, maxRun := 255, blockSize := 16 }
      = some (.unsupportedBlockSize, 16)
    ∧ issueCheck smallParams .transform { Regs.reset.latch with srcLen := 0x10, blockSize := 16, wholeFile := true }
      = some (.blockTooLarge, 16)
    ∧ issueCheck smallParams .transform { Regs.reset.latch with srcLen := 0xF, maxRun := 1, blockSize := 15 } = none := by
  decide +kernel

theorem witness_IssueLatchesTheConfiguration :
    State.reset.inFlight = none ∧ issueCheck Config.params .bwtFwd State.reset.regs.latch = none := ⟨rfl, rfl⟩

theorem witness_FailedIssueCheckEndsTheCommand :
    State.reset.inFlight = none
    ∧ issueCheck Config.params .transform State.reset.regs.latch = some (.unsupportedBlockSize, 0) := ⟨rfl, rfl⟩

/-- One word for each way to be reserved, at its boundary. -/
theorem witness_ReservedWordIsRefusedWithBadCmd :
    State.reset.inFlight = none ∧ statusBusy State.reset.regs.status = false
    ∧ (0x0#32).toNat % 0x100 = 0x00 ∧ 0x0B ≤ (0xB#32).toNat % 0x100 ∧ (0x101#32).toNat / 0x100 ≠ 0 := by decide

theorem witness_CmdWriteWhileBusyIsLost : statusBusy (tiny .mtfEnc (tinyCfg 1)).regs.status = true := by decide

theorem witness_BwtFwdCompletes :
    Memory.wf (tiny .bwtFwd (tinyCfg 1)).mem ∧ Flying (tiny .bwtFwd (tinyCfg 1)) .bwtFwd (tinyCfg 1)
    ∧ WindowsInMemory Config.params (tinyCfg 1) ∧ (tinyCfg 1).srcLen.toNat ≤ (tinyCfg 1).dstCap.toNat :=
  ⟨by decide, rfl, tiny_windows (by decide) (by decide), by decide⟩

/-- Both ways to an index in range: ARG0 0 of one byte, and an empty source. -/
theorem witness_BwtInvCompletes :
    Memory.wf (tiny .bwtInv (tinyCfg 1)).mem ∧ Flying (tiny .bwtInv (tinyCfg 1)) .bwtInv (tinyCfg 1)
    ∧ WindowsInMemory Config.params (tinyCfg 1) ∧ (tinyCfg 1).srcLen.toNat ≤ (tinyCfg 1).dstCap.toNat
    ∧ (tinyCfg 1).arg0.toNat < (tinyCfg 1).srcLen.toNat ∧ (emptyFlight .bwtInv).regs.srcLen.toNat = 0 :=
  ⟨by decide, rfl, tiny_windows (by decide) (by decide), by decide, by decide, by decide⟩

theorem witness_BwtInvReportsABadIndex :
    Memory.wf (tiny .bwtInv (tinyCfg 0 1)).mem ∧ Flying (tiny .bwtInv (tinyCfg 0 1)) .bwtInv (tinyCfg 0 1)
    ∧ WindowsInMemory Config.params (tinyCfg 0 1) ∧ 0 < (tinyCfg 0 1).srcLen.toNat
    ∧ (tinyCfg 0 1).srcLen.toNat ≤ (tinyCfg 0 1).arg0.toNat :=
  ⟨by decide, rfl, tiny_windows (by decide) (by decide), by decide, by decide⟩

theorem witness_MtfEncCompletes :
    Memory.wf (tiny .mtfEnc (tinyCfg 1)).mem ∧ Flying (tiny .mtfEnc (tinyCfg 1)) .mtfEnc (tinyCfg 1)
    ∧ WindowsInMemory Config.params (tinyCfg 1) ∧ (tinyCfg 1).srcLen.toNat ≤ (tinyCfg 1).dstCap.toNat :=
  ⟨by decide, rfl, tiny_windows (by decide) (by decide), by decide⟩

theorem witness_MtfDecCompletes :
    Memory.wf (tiny .mtfDec (tinyCfg 1)).mem ∧ Flying (tiny .mtfDec (tinyCfg 1)) .mtfDec (tinyCfg 1)
    ∧ WindowsInMemory Config.params (tinyCfg 1) ∧ (tinyCfg 1).srcLen.toNat ≤ (tinyCfg 1).dstCap.toNat :=
  ⟨by decide, rfl, tiny_windows (by decide) (by decide), by decide⟩

/-- Empty windows, in any data memory. -/
theorem witness_RleEncCompletes :
    Memory.wf (emptyFlight .rleEnc).mem ∧ Flying (emptyFlight .rleEnc) .rleEnc Regs.reset.latch
    ∧ WindowsInMemory Config.params Regs.reset.latch
    ∧ 2 * (rleGreedy ((emptyFlight .rleEnc).source Regs.reset.latch) Regs.reset.latch.maxRun.toNat).length
        ≤ Regs.reset.latch.dstCap.toNat :=
  ⟨by decide, rfl, ⟨rfl, rfl⟩, by decide⟩

/-- A source of two equal bytes. -/
theorem witness_RleEncCompletes_pairs (hP : RoomForFlight) :
    Memory.wf (flight .rleEnc [7, 7]).mem ∧ Flying (flight .rleEnc [7, 7]) .rleEnc (flightCfg 2)
    ∧ WindowsInMemory Config.params (flightCfg 2)
    ∧ 2 * (rleGreedy ((flight .rleEnc [7, 7]).source (flightCfg 2)) (flightCfg 2).maxRun.toNat).length
        ≤ (flightCfg 2).dstCap.toNat :=
  ⟨by decide, rfl, flight_windows hP (by decide) (by decide), by decide⟩

/-- Empty windows, in any data memory. -/
theorem witness_RleDecCompletes :
    Memory.wf (emptyFlight .rleDec).mem ∧ Flying (emptyFlight .rleDec) .rleDec Regs.reset.latch
    ∧ WindowsInMemory Config.params Regs.reset.latch ∧ Regs.reset.latch.srcLen.toNat % 2 = 0
    ∧ (∀ j, 2 * j + 1 < Regs.reset.latch.srcLen.toNat →
        ((emptyFlight .rleDec).source Regs.reset.latch).getD (2 * j + 1) 0 ≠ 0)
    ∧ (expandPairs ((emptyFlight .rleDec).source Regs.reset.latch)).length ≤ Regs.reset.latch.dstCap.toNat :=
  ⟨by decide, rfl, ⟨rfl, rfl⟩, by decide, fun j h => absurd h (Nat.not_lt_zero _), by decide⟩

/-- One pair. -/
theorem witness_RleDecCompletes_pairs (hP : RoomForFlight) :
    Memory.wf (flight .rleDec [7, 2]).mem ∧ Flying (flight .rleDec [7, 2]) .rleDec (flightCfg 2)
    ∧ WindowsInMemory Config.params (flightCfg 2) ∧ (flightCfg 2).srcLen.toNat % 2 = 0
    ∧ (∀ j, 2 * j + 1 < (flightCfg 2).srcLen.toNat →
        ((flight .rleDec [7, 2]).source (flightCfg 2)).getD (2 * j + 1) 0 ≠ 0)
    ∧ (expandPairs ((flight .rleDec [7, 2]).source (flightCfg 2))).length ≤ (flightCfg 2).dstCap.toNat := by
  refine ⟨by decide, rfl, flight_windows hP (by decide) (by decide), by decide, fun j h => ?_, by decide⟩
  have h2 : (flightCfg 2).srcLen.toNat = 2 := by decide
  obtain rfl : j = 0 := by omega
  decide

/-- An odd source of one byte; the even source with a zero run is the next theorem. -/
theorem witness_RleDecReportsACorruptPayload :
    Memory.wf (tiny .rleDec (tinyCfg 0)).mem ∧ Flying (tiny .rleDec (tinyCfg 0)) .rleDec (tinyCfg 0)
    ∧ WindowsInMemory Config.params (tinyCfg 0) ∧ (tinyCfg 0).srcLen.toNat % 2 = 1 :=
  ⟨by decide, rfl, tiny_windows (by decide) (by decide), by decide⟩

/-- An even source whose second pair, and none before it, has a zero run (j = 1). -/
theorem witness_RleDecReportsACorruptPayload_zero (hP : RoomForFlight) :
    Memory.wf (flight .rleDec [7, 2, 8, 0]).mem ∧ Flying (flight .rleDec [7, 2, 8, 0]) .rleDec (flightCfg 4)
    ∧ WindowsInMemory Config.params (flightCfg 4) ∧ (flightCfg 4).srcLen.toNat % 2 = 0
    ∧ 2 * 1 + 1 < (flightCfg 4).srcLen.toNat
    ∧ ((flight .rleDec [7, 2, 8, 0]).source (flightCfg 4)).getD (2 * 1 + 1) 0 = 0
    ∧ ∀ k, k < 1 → ((flight .rleDec [7, 2, 8, 0]).source (flightCfg 4)).getD (2 * k + 1) 0 ≠ 0 :=
  ⟨by decide, rfl, flight_windows hP (by decide) (by decide), by decide, by decide, by decide, by decide⟩

/-- A source of 4088 bytes, the longest whose frame surely fits in the 4096 of `flight`, of which the first is 0x41. -/
theorem witness_BlockEncCompletes (hP : RoomForFlight) :
    Memory.wf (flight .blockEnc [0x41] (fun r => { r with srcLen := 4088 })).mem
    ∧ Flying (flight .blockEnc [0x41] (fun r => { r with srcLen := 4088 })) .blockEnc
        (flightCfg 1 (fun r => { r with srcLen := 4088 }))
    ∧ WindowsInMemory Config.params (flightCfg 1 (fun r => { r with srcLen := 4088 }))
    ∧ (flightCfg 1 (fun r => { r with srcLen := 4088 })).srcLen.toNat + 8
        ≤ (flightCfg 1 (fun r => { r with srcLen := 4088 })).dstCap.toNat :=
  ⟨by decide, rfl, flight_windows hP (by decide) (by decide), by decide⟩

/-- The XFORM frame of 16 equal bytes (V-C3), in a window of exactly its 12 bytes. -/
theorem witness_BlockEncCompletes_short (hP : RoomForFlight) :
    let c := flightCfg 16 (fun r => { r with dstCap := 12 })
    let s := flight .blockEnc (List.replicate 16 0x41) (fun r => { r with dstCap := 12 })
    Memory.wf s.mem ∧ Flying s .blockEnc c ∧ WindowsInMemory Config.params c
    ∧ (blockEnc (s.source c) c.maxRun.toNat c.selfValidate c.dbg).frame.length ≤ c.dstCap.toNat
    ∧ ¬ c.srcLen.toNat + 8 ≤ c.dstCap.toNat :=
  ⟨by decide +kernel, rfl, flight_windows hP (by decide) (by decide), by decide +kernel, by decide⟩

/-- Equality of two decodings of a frame, as a Bool that the kernel evaluates. -/
def sameDec (x y : Except ErrCode (List Byte × Nat × FrameInfo)) : Bool :=
  match x, y with
  | .ok a, .ok b => decide (a = b)
  | .error a, .error b => decide (a = b)
  | _, _ => false

theorem sameDec_eq {x y : Except ErrCode (List Byte × Nat × FrameInfo)} (h : sameDec x y = true) : x = y := by
  cases x <;> cases y <;> simp_all [sameDec]

/-- The RAW frame of one byte, with a byte after it, and a destination of one byte. -/
theorem witness_BlockDecCompletes (hP : RoomForFlight) :
    let src : List Byte := [0xFF, 0xFF, 0xFF, 0xFF, 0, 0, 0, 1, 0x41, 0x99]
    let c := flightCfg 10 (fun r => { r with dstCap := 1 })
    let s := flight .blockDec src (fun r => { r with dstCap := 1 })
    Memory.wf s.mem ∧ Flying s .blockDec c ∧ WindowsInMemory Config.params c
    ∧ blockDec Config.params.maxBlock (s.source c) 0
        = .ok ([0x41], 9, { xform := false, rawLen := 1, payloadLen := 1, header0 := 0xFFFFFFFF })
    ∧ ([0x41] : List Byte).length ≤ c.dstCap.toNat :=
  ⟨by decide, rfl, flight_windows hP (by decide) (by decide), sameDec_eq (by decide +kernel), by decide⟩

/-- A source of one byte holds no header. -/
theorem witness_BlockDecReportsABadFrame :
    Memory.wf (tiny .blockDec (tinyCfg 0)).mem ∧ Flying (tiny .blockDec (tinyCfg 0)) .blockDec (tinyCfg 0)
    ∧ WindowsInMemory Config.params (tinyCfg 0)
    ∧ blockDec Config.params.maxBlock ((tiny .blockDec (tinyCfg 0)).source (tinyCfg 0)) 0
        = .error .truncatedContainer :=
  ⟨by decide, rfl, tiny_windows (by decide) (by decide), rfl⟩

/-- Empty windows, in any data memory. -/
theorem witness_TransformCompletes :
    Memory.wf (emptyFlight .transform).mem ∧ Flying (emptyFlight .transform) .transform Regs.reset.latch
    ∧ WindowsInMemory Config.params Regs.reset.latch
    ∧ (((partitionBlocks ((emptyFlight .transform).source Regs.reset.latch) Regs.reset.latch.wholeFile
          Regs.reset.latch.blockSize.toNat).map (fun Blk => blockEnc Blk Regs.reset.latch.maxRun.toNat
            Regs.reset.latch.selfValidate Regs.reset.latch.dbg)).flatMap (fun e => e.frame)).length
        ≤ Regs.reset.latch.dstCap.toNat :=
  ⟨by decide, rfl, ⟨rfl, rfl⟩, by decide⟩

/-- Three bytes in blocks of two. -/
theorem witness_TransformCompletes_blocks (hP : RoomForFlight) :
    let c := flightCfg 3 (fun r => { r with blockSize := 2 })
    let s := flight .transform [1, 2, 3] (fun r => { r with blockSize := 2 })
    Memory.wf s.mem ∧ Flying s .transform c ∧ WindowsInMemory Config.params c
    ∧ (((partitionBlocks (s.source c) c.wholeFile c.blockSize.toNat).map
          (fun Blk => blockEnc Blk c.maxRun.toNat c.selfValidate c.dbg)).flatMap (fun e => e.frame)).length
        ≤ c.dstCap.toNat :=
  ⟨by decide, rfl, flight_windows hP (by decide) (by decide), by decide +kernel⟩

/-- Empty windows, in any data memory. -/
theorem witness_InverseCompletes :
    Memory.wf (emptyFlight .inverse).mem ∧ Flying (emptyFlight .inverse) .inverse Regs.reset.latch
    ∧ WindowsInMemory Config.params Regs.reset.latch
    ∧ inverse Config.params.maxBlock ((emptyFlight .inverse).source Regs.reset.latch)
        Regs.reset.latch.dstCap.toNat = .done {} :=
  ⟨by decide, rfl, ⟨rfl, rfl⟩, rfl⟩

/-- A container of one RAW frame. -/
theorem witness_InverseCompletes_frame (hP : RoomForFlight) :
    let c := flightCfg 9
    let s := flight .inverse [0xFF, 0xFF, 0xFF, 0xFF, 0, 0, 0, 1, 0x41]
    Memory.wf s.mem ∧ Flying s .inverse c ∧ WindowsInMemory Config.params c
    ∧ ∃ a, inverse Config.params.maxBlock (s.source c) c.dstCap.toNat = .done a ∧ a.out = [0x41] :=
  ⟨by decide, rfl, flight_windows hP (by decide) (by decide),
    { pos := 9, out := [0x41], blocks := 1, xblocks := 0, last := some { xform := false, rawLen := 1, payloadLen := 1, header0 := 0xFFFFFFFF } },
    by decide +kernel, rfl⟩

/-- A container of one byte is truncated at offset 0. -/
theorem witness_InverseKeepsTheDecodedPrefix :
    Memory.wf (tiny .inverse (tinyCfg 0)).mem ∧ Flying (tiny .inverse (tinyCfg 0)) .inverse (tinyCfg 0)
    ∧ WindowsInMemory Config.params (tinyCfg 0)
    ∧ inverse Config.params.maxBlock ((tiny .inverse (tinyCfg 0)).source (tinyCfg 0)) (tinyCfg 0).dstCap.toNat
        = .failed .truncatedContainer {} :=
  ⟨by decide, rfl, tiny_windows (by decide) (by decide), rfl⟩

/-- One RAW frame and one stray byte: the frame's block is kept. -/
theorem witness_InverseKeepsTheDecodedPrefix_frame (hP : RoomForFlight) :
    let c := flightCfg 10
    let s := flight .inverse [0xFF, 0xFF, 0xFF, 0xFF, 0, 0, 0, 1, 0x41, 0x99]
    Memory.wf s.mem ∧ Flying s .inverse c ∧ WindowsInMemory Config.params c
    ∧ ∃ a, inverse Config.params.maxBlock (s.source c) c.dstCap.toNat = .failed .truncatedContainer a
        ∧ a.out = [0x41] ∧ a.pos = 9 :=
  ⟨by decide, rfl, flight_windows hP (by decide) (by decide),
    { pos := 9, out := [0x41], blocks := 1, xblocks := 0, last := some { xform := false, rawLen := 1, payloadLen := 1, header0 := 0xFFFFFFFF } },
    by decide +kernel, rfl, rfl⟩

/-- After the frame of one byte: a bad frame, and a frame of two bytes that does not fit in 2 bytes and does in 3. -/
theorem witness_InverseKeepsTheDecodedPrefix_next :
    let A : List Byte := be32 0xFFFFFFFF ++ be32 1 ++ [0x41]
    let B : List Byte := be32 0xFFFFFFFF ++ be32 2 ++ [1, 2]
    let f : FrameInfo := { xform := false, rawLen := 1, payloadLen := 1, header0 := 0xFFFFFFFF }
    let a : InverseAcc := { pos := 9, out := [0x41], blocks := 1, xblocks := 0, last := some f }
    inverse 15 A 2 = .done a ∧ inverse 15 A 3 = .done a
    ∧ ([0x99] : List Byte) ≠ [] ∧ blockDec 15 [0x99] 0 = .error .truncatedContainer
    ∧ blockDec 15 B 0 = .ok ([1, 2], 10, { xform := false, rawLen := 2, payloadLen := 2, header0 := 0xFFFFFFFF })
    ∧ 2 < a.out.length + ([1, 2] : List Byte).length ∧ a.out.length + ([1, 2] : List Byte).length ≤ 3 :=
  ⟨by decide +kernel, by decide +kernel, by decide, sameDec_eq (by decide +kernel), sameDec_eq (by decide +kernel),
    by decide, by decide⟩

/-- One index and no room; for the second clause, INVERSE of an empty source. -/
theorem witness_OutputOverflowReportsTheNeededLength :
    Memory.wf (tiny .mtfEnc (tinyCfg 0)).mem ∧ Flying (tiny .mtfEnc (tinyCfg 0)) .mtfEnc (tinyCfg 0)
    ∧ WindowsInMemory Config.params (tinyCfg 0)
    ∧ commandResult Config.params .mtfEnc (tinyCfg 0) ((tiny .mtfEnc (tinyCfg 0)).source (tinyCfg 0))
        = .ok { out := [0x41], consumed := 1 }
    ∧ (tinyCfg 0).dstCap.toNat < ({ out := [0x41], consumed := 1 } : Result).out.length
    ∧ commandResult testParams .inverse Regs.reset.latch [] = .ok {} :=
  ⟨by decide, rfl, tiny_windows (by decide) (by decide), by rfl, by decide, rfl⟩

theorem witness_CompletionChangesOnlyResultsAndDestination :
    Flying (tiny .mtfEnc (tinyCfg 1)) .mtfEnc (tinyCfg 1) ∧ ∃ t, exec .mtfEnc (tiny .mtfEnc (tinyCfg 1)) = .next t := by
  obtain ⟨u, h⟩ := exec_flying (i := .mtfEnc) (s := tiny .mtfEnc (tinyCfg 1)) (c := tinyCfg 1) rfl
    (tiny_windows (by decide) (by decide))
  exact ⟨rfl, _, h⟩

/-- Two states that differ in a configuration register, in a byte outside the source, and in the unit storage. -/
theorem witness_ResultsDependOnlyOnConfigurationAndSource :
    let s1 := tiny .mtfEnc (tinyCfg 1)
    let s2 := { s1 with mem := [(0, 0x41), (5, 9)], regs := { s1.regs with maxRun := 3 },
                        units := { s1.units with run := .run 1 1 } }
    Memory.wf s1.mem ∧ Memory.wf s2.mem ∧ Flying s1 .mtfEnc (tinyCfg 1) ∧ Flying s2 .mtfEnc (tinyCfg 1)
    ∧ s1.source (tinyCfg 1) = s2.source (tinyCfg 1) ∧ s1.regs.errInfo = s2.regs.errInfo
    ∧ ∃ t, exec .mtfEnc s1 = .next t :=
  ⟨by decide, by decide, rfl, rfl, by decide, rfl, witness_CompletionChangesOnlyResultsAndDestination.2⟩

/-- Nothing in flight, and a command in flight with a destination of one byte (k = 0). -/
theorem witness_AbortEndsTheCommandWithNothing :
    State.reset.inFlight = none
    ∧ (tiny .mtfEnc (tinyCfg 1)).inFlight = some { command := .mtfEnc, cfg := tinyCfg 1 }
    ∧ Memory.wf (tiny .mtfEnc (tinyCfg 1)).mem ∧ 0 < (tinyCfg 1).dstCap.toNat := by decide

/-- One written value for each case: soft reset, neither action, abort. -/
theorem witness_CtrlWriteFollowsItsOrder :
    (0x300#32).getLsbD 9 = true ∧ (0x6#32).getLsbD 9 = false ∧ (0x6#32).getLsbD 8 = false
    ∧ (0x106#32).getLsbD 9 = false ∧ (0x106#32).getLsbD 8 = true := by decide

/-- Both resets, with nothing and with a command in flight. -/
theorem witness_ResetForcesTheResetState :
    (0x200#32).getLsbD 9 = true
    ∧ (∃ t, writeReg testParams .ctrl 0x200 (tiny .mtfEnc (tinyCfg 1)) = .next t)
    ∧ (∃ t, runMove .rstAssert (tiny .mtfEnc (tinyCfg 1)) = .next t)
    ∧ State.reset.inFlight = none
    ∧ (tiny .mtfEnc (tinyCfg 1)).inFlight = some { command := .mtfEnc, cfg := tinyCfg 1 }
    ∧ Memory.wf (tiny .mtfEnc (tinyCfg 1)).mem ∧ 0 < (tinyCfg 1).dstCap.toNat :=
  ⟨by decide, ⟨_, rfl⟩, ⟨_, rfl⟩, rfl, rfl, by decide, by decide⟩

theorem witness_RstHoldsTheDeviceInReset :
    Inv testParams (rstAssert State.reset) ∧ (rstAssert State.reset).rst = true
    ∧ accessSupported 0x00 32 = true ∧ accessSupported 0xFC 32 = true :=
  ⟨rstReset_inv, rfl, by decide, by decide⟩

theorem witness_WritableRegistersReadBack :
    State.reset.rst = false ∧ (Reg.dbg = .blockSize ∨ Reg.dbg = .maxRun ∨ Reg.dbg = .srcAddr ∨ Reg.dbg = .srcLen
      ∨ Reg.dbg = .dstAddr ∨ Reg.dbg = .dstCap ∨ Reg.dbg = .arg0 ∨ Reg.dbg = .dbg) := by decide

/-- A read-only register, and the first and last reserved offsets. -/
theorem witness_ReadOnlyAndReservedOffsetsIgnoreWrites :
    Reg.isResult .lastHeader0 = true ∧ (0x68 ≤ 0x68 ∧ 0x68 ≤ 0xFC ∧ 0x68 % 4 = 0)
    ∧ (0x68 ≤ 0xFC ∧ 0xFC ≤ 0xFC ∧ 0xFC % 4 = 0) := by decide

theorem witness_StatusWriteClearsWrittenOnes : State.reset.rst = false := rfl

theorem witness_ResultReadWhileBusyIsADraw :
    Reg.isResult .resLen = true ∧ statusBusy (tiny .mtfEnc (tinyCfg 1)).regs.status = true
    ∧ statusBusy State.reset.regs.status = false := by decide

/-- A wrong width, a misaligned offset, an offset past the block; and a recorded fault before a step. -/
theorem witness_UnsupportedAccessIsABusFault :
    ¬ (16 = 32 ∧ 0x10 % 4 = 0 ∧ 0x10 ≤ 0xFC) ∧ ¬ (32 = 32 ∧ 0x11 % 4 = 0 ∧ 0x11 ≤ 0xFC)
    ∧ ¬ (32 = 32 ∧ 0x100 % 4 = 0 ∧ 0x100 ≤ 0xFC)
    ∧ ∃ t, step { State.reset with faults := [.hostBusFault 0x10 16] } = .next t :=
  ⟨by decide, by decide, by decide, _, rfl⟩

/-- The first and last byte of each window and the bytes beside them (V-L windows of `flight`, 16 source bytes). -/
theorem witness_HostAccessToAWindowIsARace :
    Flying (flight .bwtFwd (List.replicate 16 1)) .bwtFwd (flightCfg 16) ∧ 0xFFFF < testParams.memSize
    ∧ (flightCfg 16).inSource 0x1000 = true ∧ (flightCfg 16).inSource 0x100F = true
    ∧ (flightCfg 16).inSource 0xFFF = false ∧ (flightCfg 16).inSource 0x1010 = false
    ∧ (flightCfg 16).inDest 0x8000 = true ∧ (flightCfg 16).inDest 0x8FFF = true
    ∧ (flightCfg 16).inDest 0x7FFF = false ∧ (flightCfg 16).inDest 0x9000 = false := by
  refine ⟨rfl, ?_⟩; decide

/-- The first address past MEM_SIZE and the last within. -/
theorem witness_HostStoreThenLoad :
    Memory.wf State.reset.mem ∧ State.reset.inFlight = none ∧ testParams.memSize ≤ 0x10000 ∧ 0xFFFF < testParams.memSize := by
  decide

/-- Both ends of the cap; for a cap of 2, two consecutive pairs of one value; and a stretch of three between other bytes. -/
theorem witness_RleDecodesWhatItEncodes :
    1 ≤ 1 ∧ 1 ≤ 255 ∧ 1 ≤ 255 ∧ 255 ≤ 255
    ∧ (rleEnc [1, 7, 7, 7, 2] 2)[1]? = some (7, 2) ∧ (rleEnc [1, 7, 7, 7, 2] 2)[2]? = some (7, 1)
    ∧ ([1, 7, 7, 7, 2] : List Byte) = [1] ++ List.replicate 3 7 ++ [2]
    ∧ ([1] : List Byte).getLast? ≠ some 7 ∧ ([2] : List Byte).head? ≠ some 7 := by decide

/-- The clauses of the frame checks, in order, each on a frame that meets its premises; the first two at the limit of the
payload's length. -/
theorem witness_FrameChecksComeInOrder :
    blockDec 15 [0xFF, 0xFF, 0xFF, 0xFF, 0, 0, 0] 0 = .error .truncatedContainer
    ∧ blockDec 15 (be32 0xFFFFFFFF ++ be32 2 ++ [1]) 0 = .error .truncatedContainer
    ∧ blockDec 15 (be32 0xFFFFFFFF ++ be32 2 ++ [1, 2]) 0
        = .ok ([1, 2], 10, { xform := false, rawLen := 2, payloadLen := 2, header0 := 0xFFFFFFFF })
    ∧ blockDec 15 (be32 0 ++ be32 3 ++ []) 0 = .error .corruptPayload
    ∧ blockDec 15 (be32 0 ++ be32 2 ++ [7]) 0 = .error .truncatedContainer
    ∧ blockDec 15 (be32 0 ++ be32 2 ++ [7, 0]) 0 = .error .corruptPayload
    ∧ blockDec 15 (be32 0 ++ be32 2 ++ [7, 16]) 0 = .error .blockTooLarge
    ∧ blockDec 15 (be32 15 ++ be32 2 ++ [7, 15]) 0 = .error .corruptPrimaryIndex
    ∧ blockDec 15 (be32 9 ++ be32 0 ++ []) 0
        = .ok ([], 8, { xform := true, rawLen := 0, payloadLen := 0, header0 := 9 }) :=
  ⟨sameDec_eq (by decide +kernel), sameDec_eq (by decide +kernel), sameDec_eq (by decide +kernel),
    sameDec_eq (by decide +kernel), sameDec_eq (by decide +kernel), sameDec_eq (by decide +kernel),
    sameDec_eq (by decide +kernel), sameDec_eq (by decide +kernel), sameDec_eq (by decide +kernel)⟩

/-- An XFORM outcome, a RAW outcome by the size check, and one by self-validation of a candidate that INJ_MTF broke. -/
theorem witness_PassthroughBoundsTheFrame :
    (blockEnc (List.replicate 5 0) 255 true 0).info.xform = true
    ∧ (blockEnc [0x42] 255 true 0).info.xform = false ∧ (blockEnc [0x42] 255 true 0).valmis = 0
    ∧ (blockEnc (List.replicate 16 0x41) 255 true 1).info.xform = false
    ∧ (blockEnc (List.replicate 16 0x41) 255 true 1).valmis = 1
    ∧ (candidatePayload (bwtFwd (List.replicate 16 0x41)).1 255 1).length < (List.replicate 16 (0x41 : Byte)).length := by
  decide +kernel

theorem witness_BlockRoundTrip :
    ([0x41] : List Byte).length ≤ 1 ∧ 1 ≤ 0xFFFFFFFF ∧ 1 ≤ 1 ∧ 1 ≤ 255 ∧ InjectionOff 0 :=
  ⟨by decide, by decide, by decide, by decide, ⟨rfl, rfl⟩⟩

/-- Both modes, and a fixed block size of 1. -/
theorem witness_PartitionCoversTheSource :
    partitionBlocks [1, 2] true 0 = [[1, 2]] ∧ 1 ≤ 1 ∧ partitionBlocks [1, 2] false 1 = [[1], [2]] := by decide

theorem witness_TransformOfJoinedSources :
    let c := { Regs.reset.latch with blockSize := 2 }
    c.wholeFile = false ∧ 1 ≤ c.blockSize.toNat ∧ ([1, 2] : List Byte).length % c.blockSize.toNat = 0 := by decide

theorem witness_ContainerRoundTrip :
    let c := { Regs.reset.latch with srcLen := 2, blockSize := 2 }
    issueCheck testParams .transform c = none ∧ ([1, 2] : List Byte).length = c.srcLen.toNat
    ∧ ([1, 2] : List Byte).length ≤ 2 ∧ c.selfValidate = true := by decide +kernel

/-- Whole-file mode: the one frame cut, or too large for no room. -/
theorem witness_TruncationIsFoundInsideAFrame_whole :
    let c := { Regs.reset.latch with srcLen := 3, wholeFile := true }
    issueCheck testParams .transform c = none ∧ c.wholeFile = true ∧ ([] ++ [1, 2, 3] : List Byte).length = c.srcLen.toNat
      ∧ c.selfValidate = true ∧ ([1, 2, 3] : List Byte) ≠ [] ∧ 0 < 1
      ∧ 1 < (blockEnc [1, 2, 3] c.maxRun.toNat c.selfValidate c.dbg).frame.length
      ∧ 0 < ([] : List Byte).length + ([1, 2, 3] : List Byte).length := by decide +kernel

/-- A cut at the boundary after the first block, cuts at both ends of the inside of the second frame, room for the first
block and not the second, and a cut of the last byte of a frame. -/
theorem witness_TruncationIsFoundInsideAFrame :
    let c := { Regs.reset.latch with srcLen := 3, blockSize := 2 }
    (issueCheck testParams .transform c = none ∧ c.wholeFile = false
      ∧ ([1, 2] ++ [3] : List Byte).length = c.srcLen.toNat ∧ ([1, 2] : List Byte).length % c.blockSize.toNat = 0
      ∧ ([1, 2] : List Byte).length ≤ 2 ∧ c.selfValidate = true
      ∧ ([3] : List Byte) ≠ [] ∧ 0 < 1 ∧ 8 < (blockEnc ([3].take c.blockSize.toNat) c.maxRun.toNat true c.dbg).frame.length
      ∧ 2 < ([1, 2] : List Byte).length + ([3].take c.blockSize.toNat : List Byte).length)
    ∧ ([0x42] : List Byte).length ≤ 0xFFFFFFFF ∧ 8 < (blockEnc [0x42] 255 true 0).frame.length := by decide +kernel

end Sys2Proof.Tests
end

section
/-! PROOFS. The scope family: big-endian header fields (R11, R84), and the step that runs the decoded command
(R17, R100, R106). -/

namespace Sys2Proof.Machine

/-! Big-endian fields -/

/-- A field that starts `k` bytes into `S` is the one `k` bytes past `X` in `X ++ S`. -/
theorem rdBe32_append (X S : List Byte) (k : Nat) : rdBe32 (X ++ S) (X.length + k) = rdBe32 S k := by
  have hget : ∀ j, (X ++ S).getD (X.length + j) 0 = S.getD j 0 := fun j => by
    rw [List.getD_append_right _ _ _ _ (Nat.le_add_right _ _), Nat.add_sub_cancel_left]
  simp only [rdBe32, Nat.add_assoc, hget]

/-- The bytes of a word, as its quotients by the powers of 256. -/
theorem be32_eq_ofNat (w : Word) :
    be32 w = [BitVec.ofNat 8 (w.toNat / 2 ^ 24), BitVec.ofNat 8 (w.toNat / 2 ^ 16), BitVec.ofNat 8 (w.toNat / 2 ^ 8),
      BitVec.ofNat 8 w.toNat] := by
  simp only [be32, BitVec.extractLsb', Nat.shiftRight_eq_div_pow, Nat.pow_zero, Nat.div_one]

theorem rdBe32_be32_append (w : Word) (Y : List Byte) : rdBe32 (be32 w ++ Y) 0 = w.toNat := by
  have hlt : w.toNat < 2 ^ 32 := w.isLt
  simp only [rdBe32, be32_eq_ofNat, List.cons_append, List.getD_cons_zero, List.getD_cons_succ, BitVec.toNat_ofNat]
  omega

/-! The host's CMD write -/

theorem decodeWord_encode (i : Instr) : decodeWord (encode i) = .ok i := by cases i <;> decide

theorem cmdWrite_of_decode {w : Word} {i : Instr} {s : State} (hb : statusBusy s.regs.status = false)
    (hd : decodeWord w = .ok i) : cmdWrite w s = exec i s := by
  simp [cmdWrite, hb, hd]

/-- Out of reset, a 32-bit write at 0x1C is a CMD write (R23, R250). -/
theorem portWrite_cmd (P : Params) (w : Word) {s : State} (hr : s.rst = false) :
    portWrite P 0x1C 32 w s = cmdWrite w s := by
  simp [portWrite, accessSupported, hr, Reg.ofOffset, writeReg]

theorem hostMove_cmdWrite {P : Params} {s : State} {w : Word} {i : Instr} {rest : List HostStmt}
    (hh : s.host = .write 0x1C 32 w :: rest) (hr : s.rst = false) (hb : statusBusy s.regs.status = false)
    (hd : decodeWord w = .ok i) : hostMove P s = exec i { s with host := rest } := by
  simp only [hostMove, hh, runStmt]
  exact (portWrite_cmd P w (s := { s with host := rest }) hr).trans (cmdWrite_of_decode hb hd)

/-! Whose move a step is -/

theorem engineMove_of_inFlight {s : State} {f : InFlight} (hf : s.inFlight = some f) :
    engineMove s = exec f.command s := by
  simp [engineMove, hf]

theorem step_of_schedule {s : State} {m : Move} {ms : List Move} (hs : s.schedule = m :: ms) :
    step s = runMove m { s with schedule := ms } := by
  simp [step, hs]

/-- With the schedule used up and a command in flight, the engine moves (R109; log 4). -/
theorem step_of_inFlight {s : State} (hs : s.schedule = []) {f : InFlight} (hf : s.inFlight = some f) :
    step s = engineMove s := by
  simp [step, hs, hf]

/-- With the schedule used up and nothing in flight, the host moves (log 4). -/
theorem step_of_idle {s : State} (hs : s.schedule = []) (hf : s.inFlight = none) :
    step s = hostMove Config.params s := by
  simp [step, hs, hf]

/-- A scheduled move of the host that is a CMD write of a command runs the command (R100). -/
theorem step_scheduled_cmdWrite {s : State} {w : Word} {i : Instr} {rest : List HostStmt} {ms : List Move}
    (hs : s.schedule = .host :: ms) (hh : s.host = .write 0x1C 32 w :: rest) (hr : s.rst = false)
    (hb : statusBusy s.regs.status = false) (hd : decodeWord w = .ok i) :
    step s = exec i { s with schedule := ms, host := rest } :=
  (step_of_schedule hs).trans (hostMove_cmdWrite (s := { s with schedule := ms }) hh hr hb hd)

/-! The placed command word -/

/-- The device the placed word finds is idle: BUSY is cleared (log 5). -/
theorem withFetchWord_notBusy (s : State) (nbits w : Nat) :
    statusBusy (s.withFetchWord nbits w).regs.status = false :=
  getLsbD_setBit _ 0 false 0 (by decide)

/-- The placed word of a command is the host's next transaction, a CMD write. -/
theorem withFetchWord_host (s : State) (i : Instr) :
    (s.withFetchWord 32 (encode i).toNat).host = .write 0x1C 32 (encode i) :: s.host := by
  have hw : BitVec.ofNat 32 ((encode i).toNat % 2 ^ 32) = encode i := by
    rw [Nat.mod_eq_of_lt (encode i).isLt, BitVec.ofNat_toNat, BitVec.setWidth_eq]
  simp only [State.withFetchWord, placeCmdWrite, Reg.offset, hw]

/-! The obligations -/

/-- Settles O4: the bytes in front are skipped, and the four bytes of the word add up to it. -/
theorem headerFieldRoundTrips : Obligations.HeaderFieldRoundTrips := by
  intro X Y w
  refine ⟨?_, be32_eq_ofNat w⟩
  calc rdBe32 (X ++ be32 w ++ Y) X.length
      = rdBe32 (X ++ (be32 w ++ Y)) (X.length + 0) := by rw [List.append_assoc, Nat.add_zero]
    _ = rdBe32 (be32 w ++ Y) 0 := rdBe32_append X _ 0
    _ = w.toNat := rdBe32_be32_append w Y

/-- Settles O5: whose move it is, then what that move runs; a placed word is the host's CMD write of the first clause. -/
theorem stepRunsTheDecodedCommand : Obligations.StepRunsTheDecodedCommand := by
  refine ⟨fun s w i rest hh hr hb hd => ⟨fun ms hs => ?_, fun hs hf => ?_⟩,
    fun s f hf => ⟨fun ms hs => ?_, fun hs => ?_⟩, fun s i => ?_⟩
  · exact step_scheduled_cmdWrite hs hh hr hb hd
  · exact (step_of_idle hs hf).trans (hostMove_cmdWrite hh hr hb hd)
  · exact (step_of_schedule hs).trans (engineMove_of_inFlight (s := { s with schedule := ms }) hf)
  · exact (step_of_inFlight hs hf).trans (engineMove_of_inFlight hf)
  · exact step_scheduled_cmdWrite (ms := s.schedule) rfl (withFetchWord_host s i) rfl
      (withFetchWord_notBusy s 32 (encode i).toNat) (decodeWord_encode i)

end Sys2Proof.Machine
end

section
/-! PROOFS. The unit storage stays well-formed: the front list a permutation of the byte values (R45), a run length between
1 and 255 (R46), whatever passes a command makes and whatever an abort leaves. -/

namespace Sys2Proof.Machine

open Sys2Proof.Safety

/-- The limits of R45 and R46 on the unit storage. -/
structure Units.WellFormed (u : Units) : Prop where
  front : u.front.Perm byteValues
  run : ∀ v r, u.run = .run v r → 1 ≤ r ∧ r ≤ 255

theorem Units.reset_wellFormed : Units.reset.WellFormed := ⟨.refl _, fun _ _ h => by cases h⟩

/-- The BWT storage and the sequencer have no part in it. -/
theorem Units.WellFormed.with_bwt_seq {u : Units} (h : u.WellFormed) (b : BwtStore) (q : Sequencer) :
    { u with bwt := b, seq := q }.WellFormed := ⟨h.front, h.run⟩

theorem Units.WellFormed.afterMtfEnc {u : Units} (h : u.WellFormed) (X : List Byte) : (u.afterMtfEnc X).WellFormed :=
  ⟨mtfEncFrom_perm X (.refl _), h.run⟩

theorem Units.WellFormed.afterMtfDec {u : Units} (h : u.WellFormed) (Y : List Byte) : (u.afterMtfDec Y).WellFormed :=
  ⟨mtfDecFrom_perm Y (.refl _), h.run⟩

theorem Units.WellFormed.afterRle {u : Units} (h : u.WellFormed) : u.afterRle.WellFormed :=
  ⟨h.front, fun _ _ hr => by cases hr⟩

theorem Units.WellFormed.afterBlockEnc {u : Units} (h : u.WellFormed) (Blk : List Byte) (m : Nat) (sv : Bool)
    (dbg : Word) : (u.afterBlockEnc Blk m sv dbg).WellFormed := by
  have h1 : (({ u with bwt := u.bwt.afterFwd Blk }.afterMtfEnc (bwtFwd Blk).1).afterRle).WellFormed :=
    ((h.with_bwt_seq _ u.seq).afterMtfEnc _).afterRle
  unfold Units.afterBlockEnc
  dsimp only
  split
  · exact h1
  · split
    · split
      · exact h1
      · exact (h1.afterMtfDec _).with_bwt_seq _ _
    · exact h1

theorem Units.WellFormed.afterBlockDec {u : Units} (h : u.WellFormed) (maxBlock : Nat) (S : List Byte) (start : Nat) :
    (u.afterBlockDec maxBlock S start).WellFormed := by
  unfold Units.afterBlockDec
  split
  · exact h
  · split
    · exact (h.afterRle.afterMtfDec _).with_bwt_seq _ _
    · exact h

theorem Units.WellFormed.afterTransform {u : Units} (h : u.WellFormed) (S : List Byte) (c : Latched) :
    (u.afterTransform S c).WellFormed := by
  refine Units.WellFormed.with_bwt_seq ?_ _ _
  exact List.foldlRecOn _ _ h fun v hv Blk _ => hv.afterBlockEnc Blk _ _ _

theorem inverseUnits_wellFormed {maxBlock : Nat} {S : List Byte} {cap : Nat} (fuel : Nat) (a : InverseAcc) {u : Units}
    (h : u.WellFormed) : (inverseUnits maxBlock S cap fuel a u).WellFormed := by
  induction fuel generalizing a u with
  | zero => exact h
  | succ fuel ih =>
    have hdec := h.afterBlockDec maxBlock S a.pos
    unfold inverseUnits
    split
    · exact h
    · split
      · exact h
      · split
        · exact hdec
        · exact ih _ hdec

theorem Units.WellFormed.afterInverse {u : Units} (h : u.WellFormed) (maxBlock : Nat) (S : List Byte) (cap : Nat) :
    (u.afterInverse maxBlock S cap).WellFormed :=
  (inverseUnits_wellFormed S.length {} h).with_bwt_seq _ _

/-- The free values an abort leaves keep the limits (log 11). -/
theorem freeUnits_wellFormed (P : Params) (n : Nat) : (freeUnits P n).WellFormed where
  front := mtfDecFrom_perm _ (.refl _)
  run v r h := by
    simp only [freeUnits] at h
    split at h <;> cases h
    rename_i k _
    exact ⟨Nat.le_add_left 1 k.val, k.isLt⟩

/-- Every command runs its pure function through the shared lifecycle, and its passes keep the unit storage
well-formed. -/
theorem exec_eq_runCommand_units (i : Instr) :
    ∃ after : Latched → List Byte → Units → Units, (∀ c src u, u.WellFormed → (after c src u).WellFormed)
      ∧ ∀ s, exec i s = runCommand Config.params i (fun c src => commandResult Config.params i c src) after s := by
  cases i with
  | bwtFwd => exact ⟨afterBwtFwd, fun _ _ u h => h.with_bwt_seq _ u.seq, fun _ => rfl⟩
  | bwtInv => exact ⟨afterBwtInv, fun _ _ u h => h.with_bwt_seq _ u.seq, fun _ => rfl⟩
  | mtfEnc => exact ⟨afterMtfEnc, fun _ src _ h => h.afterMtfEnc src, fun _ => rfl⟩
  | mtfDec => exact ⟨afterMtfDec, fun _ src _ h => h.afterMtfDec src, fun _ => rfl⟩
  | rleEnc => exact ⟨afterRleEnc, fun _ _ _ h => h.afterRle, fun _ => rfl⟩
  | rleDec => exact ⟨afterRleDec, fun _ _ _ h => h.afterRle, fun _ => rfl⟩
  | blockEnc => exact ⟨afterBlockEnc, fun _ src _ h => h.afterBlockEnc src _ _ _, fun _ => rfl⟩
  | blockDec => exact ⟨afterBlockDec Config.params, fun _ src _ h => h.afterBlockDec _ src 0, fun _ => rfl⟩
  | transform => exact ⟨afterTransform, fun c src _ h => h.afterTransform src c, fun _ => rfl⟩
  | inverse => exact ⟨afterInverse Config.params, fun _ src _ h => h.afterInverse _ src _, fun _ => rfl⟩

end Sys2Proof.Machine
end

section
/-! PROOFS. What a register write and a command's step can do, and what neither of them touches. -/

namespace Sys2Proof.Machine

open Sys2Proof.Safety

/-! A command's step -/

/-- With nothing in flight the step of a command is its issue (R100). -/
theorem exec_idle (i : Instr) {s : State} (h : s.inFlight = none) :
    exec i s = .next (issueCommand Config.params i s) := by
  obtain ⟨after, he⟩ := exec_eq_runCommand i
  rw [he, runCommand_idle h]

/-- What the step of a command can do: its issue, the completion of the command in flight, a lost CMD write (log 3). -/
theorem exec_cases {i : Instr} {s t : State} (h : exec i s = .next t) :
    (s.inFlight = none ∧ t = issueCommand Config.params i s)
    ∨ (∃ c u, Flying s i c ∧ (s.units.WellFormed → u.WellFormed)
        ∧ t = { finishCommand c (commandResult Config.params i c (s.source c)) s with units := u })
    ∨ t = lostCommand s := by
  obtain ⟨after, hu, he⟩ := exec_eq_runCommand_units i
  rw [he] at h
  match hf : s.inFlight with
  | none =>
    rw [runCommand_idle hf] at h
    exact .inl ⟨rfl, (Host.Outcome.next.inj h).symm⟩
  | some ⟨j, c⟩ =>
    by_cases hj : j = i
    · subst hj
      rw [runCommand_flying hf] at h
      exact .inr (.inl ⟨c, _, hf, hu c (s.source c) s.units, (completeCommand_next h).2⟩)
    · simp only [runCommand, hf, if_neg hj] at h
      exact .inr (.inr (Host.Outcome.next.inj h).symm)

/-- A command's step touches nothing outside the device (R100, R106, R111). -/
theorem exec_outside {i : Instr} {s t : State} (h : exec i s = .next t) : SameOutside s t := by
  rcases exec_cases h with ⟨-, rfl⟩ | ⟨c, u, -, -, rfl⟩ | rfl
  · constructor <;> simp
  · constructor <;> simp
  · exact ⟨rfl, rfl, rfl, rfl, rfl, rfl, rfl⟩

/-- A command's step leaves CTRL alone (R103, R227). -/
theorem exec_ctrl {i : Instr} {s t : State} (h : exec i s = .next t) : t.regs.ctrl = s.regs.ctrl := by
  rcases exec_cases h with ⟨-, rfl⟩ | ⟨c, u, -, -, rfl⟩ | rfl
  · exact issueCommand_ctrl _ _ _
  · exact finishCommand_ctrl _ _ _
  · rfl

/-! The three ends of the command in flight, said of `exec` -/

theorem exec_succeeds {i : Instr} {s : State} {c : Latched} {res : Result} (hm : Memory.wf s.mem) (hf : Flying s i c)
    (hw : WindowsInMemory Config.params c) (hr : commandResult Config.params i c (s.source c) = .ok res)
    (hfit : res.out.length ≤ c.dstCap.toNat) : ∃ t, exec i s = .next t ∧ Succeeded c res s t := by
  obtain ⟨after, he⟩ := exec_eq_runCommand i
  rw [he]
  exact runCommand_succeeds hm hf hw hr hfit

theorem exec_overflows {i : Instr} {s : State} {c : Latched} {res : Result} (hm : Memory.wf s.mem) (hf : Flying s i c)
    (hw : WindowsInMemory Config.params c) (hr : commandResult Config.params i c (s.source c) = .ok res)
    (hfit : c.dstCap.toNat < res.out.length) :
    ∃ t, exec i s = .next t ∧ Failed c .outputOverflow (overflowInfo res.out.length) {} s t := by
  obtain ⟨after, he⟩ := exec_eq_runCommand i
  rw [he]
  exact runCommand_overflows hm hf hw hr hfit

theorem exec_fails {i : Instr} {s : State} {c : Latched} {code : ErrCode} {info : Word} {p : Partial}
    (hm : Memory.wf s.mem) (hf : Flying s i c) (hw : WindowsInMemory Config.params c)
    (hr : commandResult Config.params i c (s.source c) = .err code info p) :
    ∃ t, exec i s = .next t ∧ Failed c code info p s t := by
  obtain ⟨after, he⟩ := exec_eq_runCommand i
  rw [he]
  exact runCommand_fails hm hf hw hr (commandResult_partial_fits hr)

/-! A CMD write -/

/-- What a CMD write can do (R82, R100, R111). -/
theorem cmdWrite_cases {w : Word} {s t : State} (h : cmdWrite w s = .next t) :
    (statusBusy s.regs.status = true ∧ t = lostCommand s)
    ∨ (statusBusy s.regs.status = false ∧ (t = badCommand w s ∨ ∃ i, exec i s = .next t)) := by
  unfold cmdWrite at h
  split at h
  · rename_i hb
    exact .inl ⟨hb, (Host.Outcome.next.inj h).symm⟩
  · rename_i hb
    refine .inr ⟨by simpa using hb, ?_⟩
    split at h
    · exact .inl (Host.Outcome.next.inj h).symm
    · exact .inr ⟨_, h⟩

theorem cmdWrite_outside {w : Word} {s t : State} (h : cmdWrite w s = .next t) : SameOutside s t := by
  rcases cmdWrite_cases h with ⟨-, rfl⟩ | ⟨-, rfl | ⟨i, hi⟩⟩
  · exact ⟨rfl, rfl, rfl, rfl, rfl, rfl, rfl⟩
  · exact ⟨rfl, rfl, rfl, rfl, rfl, rfl, rfl⟩
  · exact exec_outside hi

theorem cmdWrite_ctrl {w : Word} {s t : State} (h : cmdWrite w s = .next t) : t.regs.ctrl = s.regs.ctrl := by
  rcases cmdWrite_cases h with ⟨-, rfl⟩ | ⟨-, rfl | ⟨i, hi⟩⟩
  · rfl
  · rfl
  · exact exec_ctrl hi

/-! A CTRL write (R27, R252) -/

/-- The state with the bits of a CTRL write stored, before the abort action. -/
def State.storeCtrl (s : State) (v : Word) : State := { s with regs := { s.regs with ctrl := ctrlStored v } }

theorem ctrlWrite_reset {P : Params} {v : Word} {s : State} (h : ctrlSoftReset v = true) :
    ctrlWrite P v s = resetDevice s := by
  simp [ctrlWrite, h]

theorem ctrlWrite_store {P : Params} {v : Word} {s : State} (h : ctrlSoftReset v = false) (ha : ctrlAbort v = false) :
    ctrlWrite P v s = s.storeCtrl v := by
  simp [ctrlWrite, h, ha, State.storeCtrl]

theorem ctrlWrite_abort {P : Params} {v : Word} {s : State} (h : ctrlSoftReset v = false) (ha : ctrlAbort v = true) :
    ctrlWrite P v s = abort P (s.storeCtrl v) := by
  simp [ctrlWrite, h, ha, State.storeCtrl]

/-- What a CTRL write can do. -/
theorem ctrlWrite_cases (P : Params) (v : Word) (s : State) :
    ctrlWrite P v s = resetDevice s ∨ ctrlWrite P v s = s.storeCtrl v ∨ ctrlWrite P v s = abort P (s.storeCtrl v) := by
  cases h : ctrlSoftReset v
  · cases ha : ctrlAbort v
    · exact .inr (.inl (ctrlWrite_store h ha))
    · exact .inr (.inr (ctrlWrite_abort h ha))
  · exact .inl (ctrlWrite_reset h)

theorem ctrlWrite_outside (P : Params) (v : Word) (s : State) : SameOutside s (ctrlWrite P v s) := by
  rcases ctrlWrite_cases P v s with h | h | h <;> rw [h] <;> constructor <;> simp [State.storeCtrl]

/-! The plain writable registers (R32, R33, R37, R38, R41) -/

/-- The registers that a write only stores into. -/
def Reg.isPlain (r : Reg) : Prop :=
  r = .blockSize ∨ r = .maxRun ∨ r = .srcAddr ∨ r = .srcLen ∨ r = .dstAddr ∨ r = .dstCap ∨ r = .arg0 ∨ r = .dbg

/-- The registers with `v` stored in the plain register `r`: DBG keeps its bits 1:0. -/
def Regs.store (q : Regs) (r : Reg) (v : Word) : Regs :=
  match r with
  | .blockSize => { q with blockSize := v }
  | .maxRun => { q with maxRun := v }
  | .srcAddr => { q with srcAddr := v }
  | .srcLen => { q with srcLen := v }
  | .dstAddr => { q with dstAddr := v }
  | .dstCap => { q with dstCap := v }
  | .arg0 => { q with arg0 := v }
  | .dbg => { q with dbg := dbgStored v }
  | _ => q

theorem writeReg_plain (P : Params) {r : Reg} (hr : r.isPlain) (v : Word) (s : State) :
    writeReg P r v s = .next { s with regs := s.regs.store r v } := by
  rcases hr with rfl | rfl | rfl | rfl | rfl | rfl | rfl | rfl <;> rfl

@[simp] theorem store_ctrl (q : Regs) (r : Reg) (v : Word) : (q.store r v).ctrl = q.ctrl := by cases r <;> rfl
@[simp] theorem store_status (q : Regs) (r : Reg) (v : Word) : (q.store r v).status = q.status := by cases r <;> rfl
@[simp] theorem store_lastMode (q : Regs) (r : Reg) (v : Word) : (q.store r v).lastMode = q.lastMode := by
  cases r <;> rfl

/-! A register write -/

/-- The registers whose writes are ignored (R24, R26, R39, R40). -/
def Reg.isReadOnly (r : Reg) : Prop :=
  r = .id ∨ r = .version ∨ r = .cap ∨ r = .maxBlock ∨ r = .errInfo ∨ r.isResult = true

theorem writeReg_readOnly (P : Params) {r : Reg} (hr : r.isReadOnly) (v : Word) (s : State) :
    writeReg P r v s = .next s := by
  rcases hr with rfl | rfl | rfl | rfl | rfl | hr
  case inr.inr.inr.inr.inr => cases r <;> simp [Reg.isResult] at hr <;> rfl
  all_goals rfl

/-- The registers by what a write of them does. -/
theorem Reg.write_kind (r : Reg) : r.isReadOnly ∨ r.isPlain ∨ r = .ctrl ∨ r = .cmd ∨ r = .status := by
  cases r <;> simp [Reg.isReadOnly, Reg.isPlain, Reg.isResult]

/-- What a register write that reaches the device can do (R23–R42). -/
theorem writeReg_cases {P : Params} {r : Reg} {v : Word} {s t : State} (h : writeReg P r v s = .next t) :
    t = s ∨ (r.isPlain ∧ t = { s with regs := s.regs.store r v }) ∨ (r = .ctrl ∧ t = ctrlWrite P v s)
    ∨ (r = .cmd ∧ cmdWrite v s = .next t)
    ∨ (r = .status ∧ t = { s with regs := { s.regs with status := statusWrite v s.regs.status } }) := by
  rcases r.write_kind with hr | hr | rfl | rfl | rfl
  · rw [writeReg_readOnly P hr] at h
    exact .inl (Host.Outcome.next.inj h).symm
  · rw [writeReg_plain P hr] at h
    exact .inr (.inl ⟨hr, (Host.Outcome.next.inj h).symm⟩)
  · exact .inr (.inr (.inl ⟨rfl, (Host.Outcome.next.inj h).symm⟩))
  · exact .inr (.inr (.inr (.inl ⟨rfl, h⟩)))
  · exact .inr (.inr (.inr (.inr ⟨rfl, (Host.Outcome.next.inj h).symm⟩)))

/-- A register write touches nothing outside the device. -/
theorem writeReg_outside {P : Params} {r : Reg} {v : Word} {s t : State} (h : writeReg P r v s = .next t) :
    SameOutside s t := by
  rcases writeReg_cases h with rfl | ⟨-, rfl⟩ | ⟨-, rfl⟩ | ⟨-, h⟩ | ⟨-, rfl⟩
  · exact ⟨rfl, rfl, rfl, rfl, rfl, rfl, rfl⟩
  · exact ⟨rfl, rfl, rfl, rfl, rfl, rfl, rfl⟩
  · exact ctrlWrite_outside P v s
  · exact cmdWrite_outside h
  · exact ⟨rfl, rfl, rfl, rfl, rfl, rfl, rfl⟩

/-- Only a CTRL write and a reset change CTRL: a register write leaves it, resets it, or stores the written bits 2:0. -/
theorem writeReg_ctrl {P : Params} {r : Reg} {v : Word} {s t : State} (h : writeReg P r v s = .next t) :
    t.regs.ctrl = s.regs.ctrl ∨ t.regs.ctrl = Regs.reset.ctrl ∨ (r = .ctrl ∧ t.regs.ctrl = ctrlStored v) := by
  rcases writeReg_cases h with rfl | ⟨-, rfl⟩ | ⟨hr, rfl⟩ | ⟨-, h⟩ | ⟨-, rfl⟩
  · exact .inl rfl
  · exact .inl (store_ctrl _ _ _)
  · rcases ctrlWrite_cases P v s with h | h | h <;> rw [h]
    · exact .inr (.inl rfl)
    · exact .inr (.inr ⟨hr, rfl⟩)
    · exact .inr (.inr ⟨hr, abort_ctrl _ _⟩)
  · exact .inl (cmdWrite_ctrl h)
  · exact .inl rfl

end Sys2Proof.Machine
end

section
/-! PROOFS. The invariant of the machine, part by part: data memory (R60), STATUS (R35, R36, R220), the other registers, and
a device with and without a command in flight. -/

namespace Sys2Proof.Safety

open Sys2Proof.Machine

/-! Data memory -/

/-- Data memory is canonical and inside MEM_SIZE (R60). -/
def MemoryInRange (P : Params) (m : Memory) : Prop := Memory.wf m ∧ ∀ x ∈ m, x.1 < P.memSize

theorem memoryInRange_writeByte {P : Params} {m : Memory} (h : MemoryInRange P m) {a : Nat} (ha : a < P.memSize)
    (b : Byte) : MemoryInRange P (writeByte m a b) := by
  refine ⟨writeByte_wf h.1 a b, fun x hx => ?_⟩
  rcases mem_of_mem_writeByte hx with hx | ⟨rfl, -⟩
  · exact h.2 x hx
  · exact ha

theorem memoryInRange_writeBytes {P : Params} {m : Memory} (h : MemoryInRange P m) {a : Nat} {v : List Byte}
    (ha : ∀ k, a ≤ k → k < a + v.length → k < P.memSize) : MemoryInRange P (writeBytes m a v) := by
  refine ⟨writeBytes_wf h.1 a v, fun x hx => ?_⟩
  rcases mem_of_mem_writeBytes hx with hx | ⟨h1, h2⟩
  · exact h.2 x hx
  · exact ha x.1 h1 h2

theorem memoryInRange_fillFree {P : Params} {m : Memory} (h : MemoryInRange P m) {a n : Nat} (d : Nat)
    (ha : ∀ k, a ≤ k → k < a + n → k < P.memSize) : MemoryInRange P (fillFree m a n d) := by
  refine ⟨fillFree_wf h.1 a n d, fun x hx => ?_⟩
  rcases mem_of_mem_fillFree hx with hx | ⟨h1, h2⟩
  · exact h.2 x hx
  · exact ha x.1 h1 h2

/-- Every address of a valid destination window is in data memory (R63). -/
theorem lt_memSize_of_inDest {P : Params} {c : Latched} (hw : WindowsInMemory P c) {k : Nat}
    (h1 : c.dstAddr.toNat ≤ k) (h2 : k < c.dstAddr.toNat + c.dstCap.toNat) : k < P.memSize := by
  have hd := hw.2
  simp only [Latched.dstValid, windowValid, Bool.or_eq_true, beq_iff_eq, decide_eq_true_eq] at hd
  rcases hd with hd | hd
  · rw [hd] at h2
    exact absurd h2 (Nat.not_lt.2 h1)
  · omega

/-! STATUS -/

/-- The form of STATUS: reserved bits 0, ERR_CODE 0 while ERR is 0 and at most 0x0A (R35, R36, R220). -/
structure StatusWellFormed (w : Word) : Prop where
  reserved : w &&& 0xFFFF00E0#32 = 0#32
  errCode : statusErr w = false → statusErrCode w = errNone
  range : (statusErrCode w).toNat ≤ 0x0A

/-- A bit of STATUS below 5 other than ERR has no part in its form. -/
theorem StatusWellFormed.with_bit {w : Word} (h : StatusWellFormed w) {k : Nat} (hk : k < 5) (h2 : k ≠ 2) (b : Bool) :
    StatusWellFormed (setBit w k b) where
  reserved := statusReserved_setBit k b hk h.reserved
  errCode he := by
    rw [statusErrCode_setBit _ _ _ (by omega)]
    refine h.errCode ?_
    rwa [statusErr, getLsbD_setBit _ _ _ _ (by omega), if_neg (Ne.symm h2)] at he
  range := by rw [statusErrCode_setBit _ _ _ (by omega)]; exact h.range

theorem StatusWellFormed.issue {w : Word} (h : StatusWellFormed w) : StatusWellFormed (statusIssue w) where
  reserved := statusReserved_statusIssue h.reserved
  errCode _ := statusErrCode_statusIssue w
  range := by simp [errNone]

theorem StatusWellFormed.success {w : Word} (h : StatusWellFormed w) (b : Bool) :
    StatusWellFormed (statusSuccess b w) :=
  ((h.with_bit (by decide) (by decide) b).with_bit (by decide) (by decide) false).with_bit (by decide) (by decide) true

theorem StatusWellFormed.error {w : Word} (h : StatusWellFormed w) (c : ErrCode) :
    StatusWellFormed (statusError c w) where
  reserved := statusReserved_statusError c h.reserved
  errCode he := by cases (getLsbD_statusError c w 2 (by decide)).symm.trans he
  range := by rw [statusErrCode_statusError]; exact c.value_le

theorem StatusWellFormed.issueError {w : Word} (h : StatusWellFormed w) (c : ErrCode) :
    StatusWellFormed (statusIssueError c w) where
  reserved := statusReserved_statusIssueError c h.reserved
  errCode he := by cases (getLsbD_statusIssueError c w 2 (by decide)).symm.trans he
  range := by rw [statusErrCode_statusIssueError]; exact c.value_le

theorem StatusWellFormed.write {w : Word} (h : StatusWellFormed w) (v : Word) : StatusWellFormed (statusWrite v w) where
  reserved := statusReserved_statusWrite v h.reserved
  errCode he := by
    rw [statusErrCode_statusWrite]
    have hbit : (statusWrite v w).getLsbD 2 = (w.getLsbD 2 && !v.getLsbD 2) := getLsbD_statusWrite_low v w 2 (by decide)
    split
    · rfl
    · rename_i hv
      rw [Bool.not_eq_true] at hv
      refine h.errCode ?_
      rw [statusErr, hbit] at he
      simpa only [statusErr, hv, Bool.not_false, Bool.and_true] using he
  range := by
    rw [statusErrCode_statusWrite]
    split
    · decide
    · exact h.range

/-- `w'` sets none of DONE, ERR, VAL_MISMATCH and ERR_CODE that `w` has clear, and has the BUSY of `w`: what a step that
keeps the command in flight does to STATUS. -/
structure StatusNarrows (w w' : Word) : Prop where
  busy : statusBusy w' = statusBusy w
  done : statusDone w = false → statusDone w' = false
  err : statusErr w = false → statusErr w' = false
  valMismatch : statusValMismatch w = false → statusValMismatch w' = false
  errCode : statusErrCode w = errNone → statusErrCode w' = errNone

theorem StatusNarrows.refl (w : Word) : StatusNarrows w w := ⟨rfl, id, id, id, id⟩

/-- A lost CMD write sets CMD_OVR only (R111). -/
theorem statusNarrows_lost (w : Word) : StatusNarrows w (setBit w 4 true) where
  busy := getLsbD_setBit w 4 true 0 (by decide)
  done h := (getLsbD_setBit w 4 true 1 (by decide)).trans h
  err h := (getLsbD_setBit w 4 true 2 (by decide)).trans h
  valMismatch h := (getLsbD_setBit w 4 true 3 (by decide)).trans h
  errCode h := (statusErrCode_setBit w 4 true (by decide)).trans h

/-- A STATUS write clears bits only, and BUSY is none of them (R36). -/
theorem statusNarrows_write (v w : Word) : StatusNarrows w (statusWrite v w) := by
  have bit : ∀ j, j < 8 → w.getLsbD j = false → (statusWrite v w).getLsbD j = false := fun j hj h => by
    rw [getLsbD_statusWrite_low v w j hj, h, Bool.false_and]
  refine ⟨?_, bit 1 (by decide), bit 2 (by decide), bit 3 (by decide), fun h => ?_⟩
  · exact (getLsbD_statusWrite_low v w 0 (by decide)).trans (by simp [statusBusy])
  · rw [statusErrCode_statusWrite, h, ite_self]

/-! The registers -/

theorem RegsWellFormed.statusWellFormed {q : Regs} (h : RegsWellFormed q) : StatusWellFormed q.status :=
  ⟨h.status, h.errCode, h.errCodeRange⟩

theorem regsWellFormed_of {q : Regs} (hc : ctrlStored q.ctrl = q.ctrl) (hd : dbgStored q.dbg = q.dbg)
    (hs : StatusWellFormed q.status) (hl : q.lastMode = 0 ∨ q.lastMode = 2 ∨ q.lastMode = 3) : RegsWellFormed q :=
  ⟨hc, hd, hs.reserved, hs.errCode, hs.range, hl⟩

theorem regsWellFormed_reset : RegsWellFormed Regs.reset := ⟨rfl, rfl, rfl, fun _ => rfl, by decide, .inl rfl⟩

/-- LAST_MODE is 0, 2 or 3 after LAST_* is written (R39). -/
theorem writeLast_lastMode_cases (q : Regs) (last : Option FrameInfo) :
    (q.writeLast last).lastMode = 0 ∨ (q.writeLast last).lastMode = 2 ∨ (q.writeLast last).lastMode = 3 := by
  cases last with
  | none => exact .inl rfl
  | some f =>
    simp only [Regs.writeLast]
    split
    · exact .inr (.inr rfl)
    · exact .inr (.inl rfl)

theorem RegsWellFormed.with_status {q : Regs} (h : RegsWellFormed q) {w : Word} (hw : StatusWellFormed w) :
    RegsWellFormed { q with status := w } := regsWellFormed_of h.ctrl h.dbg hw h.lastMode

theorem RegsWellFormed.store {q : Regs} (h : RegsWellFormed q) (r : Reg) (v : Word) : RegsWellFormed (q.store r v) := by
  refine regsWellFormed_of ?_ ?_ ?_ ?_
  · rw [store_ctrl]; exact h.ctrl
  · cases r
    case dbg => exact dbgStored_dbgStored v
    all_goals exact h.dbg
  · rw [store_status]; exact h.statusWellFormed
  · rw [store_lastMode]; exact h.lastMode

theorem RegsWellFormed.storeCtrl {q : Regs} (h : RegsWellFormed q) (v : Word) :
    RegsWellFormed { q with ctrl := ctrlStored v } :=
  regsWellFormed_of (ctrlStored_ctrlStored v) h.dbg h.statusWellFormed h.lastMode

theorem RegsWellFormed.success {q : Regs} (h : RegsWellFormed q) (res : Result) (b : Bool) :
    RegsWellFormed { q.writeResults res with status := statusSuccess b q.status } :=
  regsWellFormed_of (by simpa using h.ctrl) (by simpa using h.dbg) (h.statusWellFormed.success b)
    (writeLast_lastMode_cases q res.last)

theorem RegsWellFormed.error {q : Regs} (h : RegsWellFormed q) (p : Partial) (info : Word) (code : ErrCode) :
    RegsWellFormed { q.writePartial p with errInfo := info, status := statusError code q.status } :=
  regsWellFormed_of (by simpa using h.ctrl) (by simpa using h.dbg) (h.statusWellFormed.error code)
    (writeLast_lastMode_cases q p.last)

theorem RegsWellFormed.issueError {q : Regs} (h : RegsWellFormed q) (info : Word) (code : ErrCode) :
    RegsWellFormed { q.clearResults with errInfo := info, status := statusIssueError code q.status } :=
  regsWellFormed_of h.ctrl h.dbg (h.statusWellFormed.issueError code) (.inl rfl)

theorem RegsWellFormed.issueStart {q : Regs} (h : RegsWellFormed q) : RegsWellFormed q.issueStart :=
  regsWellFormed_of h.ctrl h.dbg h.statusWellFormed.issue h.lastMode

/-! The whole invariant -/

theorem Inv.memoryInRange {P : Params} {s : State} (h : Inv P s) : MemoryInRange P s.mem := ⟨h.memWf, h.memRange⟩

theorem Inv.unitsWellFormed {P : Params} {s : State} (h : Inv P s) : s.units.WellFormed := ⟨h.front, h.run⟩

theorem Inv.inFlight_of_notBusy {P : Params} {s : State} (h : Inv P s) (hb : statusBusy s.regs.status = false) :
    s.inFlight = none := by
  rw [← Option.not_isSome_iff_eq_none, ← h.busy, hb]
  decide

theorem Inv.notBusy {P : Params} {s : State} (h : Inv P s) (hf : s.inFlight = none) :
    statusBusy s.regs.status = false := by
  rw [h.busy, hf]; rfl

/-- The windows of the command in flight are in data memory (R102). -/
theorem Inv.windows {P : Params} {s : State} (h : Inv P s) {f : InFlight} (hf : s.inFlight = some f) :
    WindowsInMemory P f.cfg := windowsInMemory_of_checked (h.flight f hf).checked

/-- With a command in flight RST is not asserted (R250). -/
theorem Inv.rst_of_inFlight {P : Params} {s : State} (h : Inv P s) {f : InFlight} (hf : s.inFlight = some f) :
    s.rst = false := by
  by_contra hr
  rw [(h.reset (by simpa using hr)).2] at hf
  cases hf

/-- The invariant of a device with nothing in flight. -/
theorem inv_of_idle {P : Params} {t : State} (hm : MemoryInRange P t.mem) (hb : statusBusy t.regs.status = false)
    (hf : t.inFlight = none) (hq : RegsWellFormed t.regs) (hu : t.units.WellFormed)
    (hr : t.rst = true → t.regs = Regs.reset) : Inv P t where
  memWf := hm.1
  memRange := hm.2
  busy := by rw [hb, hf]; rfl
  flight f hf' := by rw [hf] at hf'; cases hf'
  regs := hq
  front := hu.front
  run := hu.run
  reset h := ⟨hr h, hf⟩

/-- A step that leaves the device alone keeps the invariant. -/
theorem Inv.of_sameDevice {P : Params} {s t : State} (h : Inv P s) (e : SameDevice s t) : Inv P t := by
  obtain ⟨hq, hm, hf, hu, hr, -⟩ := e
  refine ⟨hm ▸ h.memWf, hm ▸ h.memRange, by rw [hq, hf]; exact h.busy, fun f hf' => ?_, hq ▸ h.regs, hu ▸ h.front,
    hu ▸ h.run, by rw [hr, hq, hf]; exact h.reset⟩
  obtain ⟨hc, hd, he, hv, hx⟩ := h.flight f (hf ▸ hf')
  rw [← hq] at hd he hv hx
  exact ⟨hc, hd, he, hv, hx⟩

/-- A change of registers out of reset that keeps their form and does not end the command in flight keeps the
invariant. -/
theorem Inv.with_regs {P : Params} {s : State} (h : Inv P s) (hr : s.rst = false) {q : Regs} (hq : RegsWellFormed q)
    (hn : StatusNarrows s.regs.status q.status) : Inv P { s with regs := q } where
  memWf := h.memWf
  memRange := h.memRange
  busy := hn.busy.trans h.busy
  flight f hf := by
    obtain ⟨hc, hd, he, hv, hx⟩ := h.flight f hf
    exact ⟨hc, hn.done hd, hn.err he, hn.valMismatch hv, hn.errCode hx⟩
  regs := hq
  front := h.front
  run := h.run
  reset h' := by rw [hr] at h'; cases h'

/-- A host store into data memory keeps the invariant. -/
theorem Inv.with_mem {P : Params} {s : State} (h : Inv P s) {m : Memory} (hm : MemoryInRange P m) :
    Inv P { s with mem := m } :=
  ⟨hm.1, hm.2, h.busy, fun f hf => ⟨(h.flight f hf).checked, (h.flight f hf).done, (h.flight f hf).err,
    (h.flight f hf).valMismatch, (h.flight f hf).errCode⟩, h.regs, h.front, h.run, h.reset⟩

/-! Completion, abort, reset and issue -/

/-- A completion is a success whose output fits, or an error whose partial output does (R106, R108). -/
theorem finishCommand_cases {c : Latched} {v : CommandResult} (s : State)
    (hv : ∀ code info p, v = .err code info p → p.out.length ≤ c.dstCap.toNat) :
    (∃ res : Result, res.out.length ≤ c.dstCap.toNat ∧ finishCommand c v s = successCompletion c res s)
    ∨ ∃ code info, ∃ p : Partial, p.out.length ≤ c.dstCap.toNat
        ∧ finishCommand c v s = errorCompletion c code info p s := by
  cases v with
  | ok res =>
    by_cases hfit : c.dstCap.toNat < res.out.length
    · exact .inr ⟨.outputOverflow, _, {}, Nat.zero_le _, if_pos hfit⟩
    · exact .inl ⟨res, by omega, if_neg hfit⟩
  | err code info p => exact .inr ⟨code, info, p, hv code info p rfl, rfl⟩

/-- A completion keeps the invariant, the passes of its command having kept the unit storage well-formed. -/
theorem inv_finishCommand {P : Params} {s : State} (h : Inv P s) {i : Instr} {c : Latched} (hf : Flying s i c)
    {u : Units} (hu : u.WellFormed) (src : List Byte) :
    Inv P { finishCommand c (commandResult P i c src) s with units := u } := by
  have hw : WindowsInMemory P c := h.windows hf
  have hr := h.rst_of_inFlight hf
  rcases finishCommand_cases s (fun _ _ _ => commandResult_partial_fits (P := P) (i := i) (c := c) (src := src))
    with ⟨res, hlen, he⟩ | ⟨code, info, p, hlen, he⟩ <;> rw [he]
  · refine inv_of_idle ?_ (getLsbD_statusSuccess _ _ 0) rfl (h.regs.success res _) hu fun h' => ?_
    · exact memoryInRange_writeBytes h.memoryInRange fun k h1 h2 => lt_memSize_of_inDest hw h1 (by omega)
    · cases hr.symm.trans h'
  · refine inv_of_idle ?_ (getLsbD_statusError _ _ 0 (by decide)) rfl (h.regs.error p info code) hu fun h' => ?_
    · have hout := memoryInRange_writeBytes (a := c.dstAddr.toNat) (v := p.out) h.memoryInRange fun k h1 h2 =>
        lt_memSize_of_inDest hw h1 (by omega)
      exact memoryInRange_fillFree hout s.draws fun k h1 h2 => lt_memSize_of_inDest hw (by omega) (by omega)
    · cases hr.symm.trans h'

/-- A CMD write that is lost keeps the invariant (R111). -/
theorem inv_lostCommand {P : Params} {s : State} (h : Inv P s) (hr : s.rst = false) : Inv P (lostCommand s) :=
  h.with_regs hr (h.regs.with_status (h.regs.statusWellFormed.with_bit (by decide) (by decide) true))
    (statusNarrows_lost s.regs.status)

/-- The step of the command in flight keeps the invariant. -/
theorem inv_exec_flying {s t : State} (h : Inv Config.params s) {f : InFlight} (hf : s.inFlight = some f)
    (he : exec f.command s = .next t) : Inv Config.params t := by
  rcases exec_cases he with ⟨hn, -⟩ | ⟨c, u, hc, hu, rfl⟩ | rfl
  · cases hn.symm.trans hf
  · exact inv_finishCommand h hc (hu h.unitsWellFormed) _
  · exact inv_lostCommand h (h.rst_of_inFlight hf)

theorem inv_abort {P : Params} {s : State} (h : Inv P s) : Inv P (abort P s) := by
  unfold abort
  split
  · exact h
  · rename_i f hf
    refine inv_of_idle ?_ (getLsbD_statusError _ _ 0 (by decide)) rfl (h.regs.error {} 0 .aborted)
      (freeUnits_wellFormed P _) fun h' => ?_
    · exact memoryInRange_fillFree h.memoryInRange s.draws fun k h1 h2 => lt_memSize_of_inDest (h.windows hf) h1 h2
    · cases (h.rst_of_inFlight hf).symm.trans h'

theorem inv_resetDevice {P : Params} {s : State} (h : Inv P s) (b : Bool) : Inv P { resetDevice s with rst := b } := by
  have hm : MemoryInRange P (resetDevice s).mem := by
    unfold resetDevice
    split
    · exact h.memoryInRange
    · rename_i f hf
      exact memoryInRange_fillFree h.memoryInRange s.draws fun k h1 h2 => lt_memSize_of_inDest (h.windows hf) h1 h2
  exact inv_of_idle hm (by decide : statusBusy Regs.reset.status = false) rfl regsWellFormed_reset
    Units.reset_wellFormed fun _ => rfl

/-- An issue-time error completion, after what issue sets, keeps the invariant of an idle device (R113). -/
theorem inv_issueError {P : Params} {s : State} (h : Inv P s) (hf : s.inFlight = none) (hr : s.rst = false)
    (code : ErrCode) (info : Word) : Inv P (issueError code info { s with regs := s.regs.issueStart }) := by
  have href := issueError_refused (code := code) (info := info) hf
  exact inv_of_idle h.memoryInRange (href.busy.trans (h.notBusy hf)) hf (h.regs.issueStart.issueError info code)
    h.unitsWellFormed fun h' => by cases hr.symm.trans h'

/-- The issue of a command on an idle device out of reset keeps the invariant (R101–R104, R113). -/
theorem inv_issueCommand {P : Params} {s : State} (h : Inv P s) (hf : s.inFlight = none) (hr : s.rst = false)
    (i : Instr) : Inv P (issueCommand P i s) := by
  cases hc : issueCheck P i s.regs.latch with
  | some e =>
    have he : issueCommand P i s = issueError e.1 e.2 { s with regs := s.regs.issueStart } := by
      simp only [issueCommand, issueStart_latch, hc]
    rw [he]
    exact inv_issueError h hf hr e.1 e.2
  | none =>
    obtain ⟨hfly, hbusy, hdone, herr, hcode, hvm, -⟩ := issueCommand_issued hc
    have hq : (issueCommand P i s).regs
        = { s.regs.issueStart with status := setBit (statusIssue s.regs.status) 0 true } := by
      simp only [issueCommand, issueStart_latch, hc, issueStart_status]
    refine ⟨?_, ?_, by rw [hbusy, hfly]; rfl, fun f hf' => ?_, ?_, ?_, ?_, fun h' => ?_⟩
    · rw [issueCommand_mem]; exact h.memWf
    · rw [issueCommand_mem]; exact h.memRange
    · cases hfly.symm.trans hf'
      exact ⟨hc, hdone, herr, hvm, hcode⟩
    · rw [hq]
      exact h.regs.issueStart.with_status (h.regs.statusWellFormed.issue.with_bit (by decide) (by decide) _)
    · rw [issueCommand_units]; exact h.front
    · rw [issueCommand_units]; exact h.run
    · rw [issueCommand_rst, hr] at h'; cases h'

/-! Register writes, moves and steps -/

theorem inv_cmdWrite {s t : State} (h : Inv Config.params s) (hr : s.rst = false) {w : Word}
    (he : cmdWrite w s = .next t) : Inv Config.params t := by
  rcases cmdWrite_cases he with ⟨-, rfl⟩ | ⟨hb, rfl | ⟨i, hi⟩⟩
  · exact inv_lostCommand h hr
  · exact inv_issueError h (h.inFlight_of_notBusy hb) hr .badCmd w
  · have hf := h.inFlight_of_notBusy hb
    rw [exec_idle i hf] at hi
    cases hi
    exact inv_issueCommand h hf hr i

theorem inv_ctrlWrite {P : Params} {s : State} (h : Inv P s) (hr : s.rst = false) (v : Word) :
    Inv P (ctrlWrite P v s) := by
  have hstore : Inv P (s.storeCtrl v) := h.with_regs hr (h.regs.storeCtrl v) (.refl _)
  rcases ctrlWrite_cases P v s with e | e | e <;> rw [e]
  · exact inv_resetDevice h (resetDevice s).rst
  · exact hstore
  · exact inv_abort hstore

/-- A register write that reaches the device keeps the invariant. -/
theorem inv_writeReg {s t : State} (h : Inv Config.params s) (hr : s.rst = false) {r : Reg} {v : Word}
    (he : writeReg Config.params r v s = .next t) : Inv Config.params t := by
  rcases writeReg_cases he with rfl | ⟨-, rfl⟩ | ⟨-, rfl⟩ | ⟨-, he⟩ | ⟨-, rfl⟩
  · exact h
  · exact h.with_regs hr (h.regs.store r v) (by rw [store_status]; exact .refl _)
  · exact inv_ctrlWrite h hr v
  · exact inv_cmdWrite h hr he
  · exact h.with_regs hr (h.regs.with_status (h.regs.statusWellFormed.write v)) (statusNarrows_write v _)

/-- Whatever a move does, it keeps the invariant. -/
theorem inv_transition {s t : State} (h : Inv Config.params s) (ht : Transition Config.params s t) :
    Inv Config.params t := by
  cases ht with
  | quiet e => exact h.of_sameDevice e
  | write r v s0 e _ hr he => exact inv_writeReg (h.of_sameDevice e) (e.rst.trans hr) he
  | store a b s0 e ha he =>
    subst he
    have h0 := h.of_sameDevice e
    exact h0.with_mem (memoryInRange_writeByte h0.memoryInRange ha b)
  | engine f s0 e hf he => exact inv_exec_flying (h.of_sameDevice e) (e.inFlight.trans hf) he
  | reset s0 e he =>
    have h0 := h.of_sameDevice e
    rcases he with rfl | rfl
    · exact inv_resetDevice h0 true
    · unfold rstRelease
      split
      · exact inv_resetDevice h0 false
      · exact h0

/-- Settles O8: each thing a step can do keeps the invariant. -/
theorem everyStepKeepsTheInvariant : Obligations.EveryStepKeepsTheInvariant := by
  intro s t h hs
  exact inv_transition h (step_cases hs)

end Sys2Proof.Safety
end

section
/-! PROOFS. The register port: which offset names which register, what a read and a write at an offset are (R20, R23, R42,
R61, R67). -/

namespace Sys2Proof.Machine

open Sys2Proof.Safety

/-! Offsets -/

theorem accessSupported_iff {off width : Nat} :
    accessSupported off width = true ↔ width = 32 ∧ off % 4 = 0 ∧ off ≤ 0xFC := by
  simp [accessSupported, and_assoc]

theorem Reg.offset_mod_four (r : Reg) : r.offset % 4 = 0 := by cases r <;> rfl

theorem Reg.offset_le (r : Reg) : r.offset ≤ 0x64 := by cases r <;> decide

theorem accessSupported_offset (r : Reg) : accessSupported r.offset 32 = true :=
  accessSupported_iff.2 ⟨rfl, r.offset_mod_four, Nat.le_trans r.offset_le (by decide)⟩

theorem Reg.ofOffset_offset (r : Reg) : Reg.ofOffset r.offset = some r := by cases r <;> rfl

theorem Reg.ofOffset_eq_some_iff {off : Nat} {r : Reg} : Reg.ofOffset off = some r ↔ off = r.offset := by
  refine ⟨Reg.ofOffset_eq, fun h => ?_⟩
  rw [h, Reg.ofOffset_offset]

/-- The offsets past the last register name none (R42). -/
theorem Reg.ofOffset_reserved {off : Nat} (h : 0x68 ≤ off) : Reg.ofOffset off = none := by
  cases hr : Reg.ofOffset off with
  | none => rfl
  | some r =>
    have := r.offset_le
    have := Reg.ofOffset_eq hr
    omega

theorem csrBase_toNat (P : Params) : P.csrBase.toNat = P.csrPage.toNat * 256 := by
  rw [Params.csrBase, BitVec.toNat_append, Nat.shiftLeft_eq]
  exact Nat.or_zero _

/-- A platform address reaches `off` exactly when it is `off` bytes past CSR_BASE (R20, R61). -/
theorem csrOffset_eq_some_iff {P : Params} {a : Word} {off : Nat} :
    csrOffset P a = some off ↔ off < 256 ∧ a.toNat = P.csrBase.toNat + off := by
  have ha : a.toNat < 2 ^ 32 := a.isLt
  have hp : P.csrPage.toNat < 2 ^ 24 := P.csrPage.isLt
  have hb := csrBase_toNat P
  have hsub : (a - P.csrBase).toNat = (2 ^ 32 - P.csrBase.toNat + a.toNat) % 2 ^ 32 := BitVec.toNat_sub a P.csrBase
  unfold csrOffset
  split
  · rw [Option.some.injEq]; omega
  · constructor
    · intro h; cases h
    · omega

/-! Accesses at an offset -/

/-- Out of reset a write at a register's offset is a write of that register (R23, R250). -/
theorem portWrite_offset (P : Params) (r : Reg) (v : Word) {s : State} (hr : s.rst = false) :
    portWrite P r.offset 32 v s = writeReg P r v s := by
  simp [portWrite, accessSupported_offset, hr, Reg.ofOffset_offset]

/-- While RST is asserted a supported write is ignored (R250). -/
theorem portWrite_of_rst (P : Params) {off width : Nat} (ha : accessSupported off width = true) (v : Word) {s : State}
    (hr : s.rst = true) : portWrite P off width v s = .next s := by
  simp [portWrite, ha, hr]

/-- A read at a register's offset is a read of that register (R23). -/
theorem portRead_offset (P : Params) (r : Reg) (s : State) : portRead P r.offset 32 s = readReg P r s := by
  simp [portRead, accessSupported_offset, Reg.ofOffset_offset]

/-- A read gives the register's value, but for a result register while BUSY is 1 (R39). -/
theorem readReg_value (P : Params) {r : Reg} {s : State} (h : (r.isResult && statusBusy s.regs.status) = false) :
    readReg P r s = { s with regData := s.regs.value P r } := by
  simp only [readReg, h, Bool.false_eq_true, if_false]

/-- A read of a result register while BUSY is 1 gives the next free word (R39, R260). -/
theorem readReg_draw (P : Params) {r : Reg} {s : State} (hr : r.isResult = true) (hb : statusBusy s.regs.status = true) :
    readReg P r s = { s with regData := Config.freeWord s.draws, draws := s.draws + 1 } := by
  simp only [readReg, hr, hb, Bool.and_self, if_true]

theorem portWrite_unsupported (P : Params) {off width : Nat} (h : accessSupported off width = false) (v : Word)
    (s : State) : portWrite P off width v s = .next (busFault off width s) := by
  simp [portWrite, h]

theorem portRead_unsupported (P : Params) {off width : Nat} (h : accessSupported off width = false) (s : State) :
    portRead P off width s = busFault off width s := by
  simp [portRead, h]

/-! Reset (R250) -/

theorem resetDevice_mem_of_idle {s : State} (h : s.inFlight = none) : (resetDevice s).mem = s.mem := by
  simp [resetDevice, h]

theorem rstRelease_of_rst {s : State} (h : s.rst = true) : rstRelease s = { resetDevice s with rst := false } := by
  simp [rstRelease, h]

/-! The plain writable registers -/

theorem Reg.isPlain.not_result {r : Reg} (h : r.isPlain) : r.isResult = false := by
  rcases h with rfl | rfl | rfl | rfl | rfl | rfl | rfl | rfl <;> rfl

/-- What a plain register holds after a value was stored in it. -/
theorem store_value_same (P : Params) (q : Regs) {r : Reg} (h : r.isPlain) (v : Word) :
    ((q.store r v).value P r).toNat = if r = .dbg then v.toNat % 4 else v.toNat := by
  rcases h with rfl | rfl | rfl | rfl | rfl | rfl | rfl | rfl
  case inr.inr.inr.inr.inr.inr.inr => exact dbgStored_toNat v
  all_goals rfl

/-- A store in one register leaves every other one alone. -/
theorem store_value_of_ne (P : Params) (q : Regs) {r r' : Reg} (h : r' ≠ r) (v : Word) :
    (q.store r v).value P r' = q.value P r' := by
  cases r <;> cases r' <;> trivial

/-! What a step does to CTRL and to the recorded faults -/

/-- A move leaves CTRL alone, resets it, or is a host write of CTRL that stores bits 2:0 (R27, R28). -/
theorem Transition.ctrl_cases {s t : State} (h : Transition Config.params s t) :
    t.regs.ctrl = s.regs.ctrl ∨ t.regs.ctrl = Regs.reset.ctrl
    ∨ ∃ v, HostWrites Config.params s 0x10 v ∧ t.regs.ctrl = ctrlStored v := by
  cases h with
  | quiet e => exact .inl (congrArg Regs.ctrl e.regs)
  | write r v s0 e hw _ he =>
    rcases writeReg_ctrl he with hc | hc | ⟨rfl, hc⟩
    · exact .inl (hc.trans (congrArg Regs.ctrl e.regs))
    · exact .inr (.inl hc)
    · exact .inr (.inr ⟨v, hw, hc⟩)
  | store a b s0 e _ he => subst he; exact .inl (congrArg Regs.ctrl e.regs)
  | engine f s0 e _ he => exact .inl ((exec_ctrl he).trans (congrArg Regs.ctrl e.regs))
  | reset s0 e he =>
    rcases he with rfl | rfl
    · exact .inr (.inl rfl)
    · unfold rstRelease
      split
      · exact .inr (.inl rfl)
      · exact .inl (congrArg Regs.ctrl e.regs)

theorem rstRelease_faults (s : State) : (rstRelease s).faults = s.faults := by
  unfold rstRelease
  split
  · exact resetDevice_faults s
  · rfl

/-- No move clears a recorded fault (R67). -/
theorem Transition.faults_kept {P : Params} {s t : State} (h : Transition P s t) : ∀ e ∈ s.faults, e ∈ t.faults := by
  cases h with
  | quiet e => exact e.faults
  | write r v s0 e _ _ he => rw [(writeReg_outside he).faults]; exact e.faults
  | store a b s0 e _ he => subst he; exact e.faults
  | engine f s0 e _ he => rw [(exec_outside he).faults]; exact e.faults
  | reset s0 e he =>
    rcases he with rfl | rfl
    · exact (resetDevice_faults s0).symm ▸ e.faults
    · rw [rstRelease_faults]; exact e.faults

/-! The obligations about the register port and the resets -/

/-- Settles O10: of the things a move can do to CTRL, only a host write that stores a 0 clears bit 0. -/
theorem selfValidationIsDisabledOnlyByAHostWrite : Obligations.SelfValidationIsDisabledOnlyByAHostWrite := by
  intro s t hs h1 h0
  rcases (step_cases hs).ctrl_cases with hc | hc | ⟨v, ⟨rest, hw⟩, hc⟩ <;> rw [hc] at h0
  · cases h1.symm.trans h0
  · exact absurd h0 (by decide)
  · refine ⟨v, rest, ?_, hw⟩
    simpa [ctrlSelfValidate, ctrlStored] using h0

/-- Settles O37: writes are turned away, nothing in flight makes every read a plain one, and the release is a reset. -/
theorem rstHoldsTheDeviceInReset : Obligations.RstHoldsTheDeviceInReset := by
  intro P s hinv hr
  obtain ⟨hq, hf⟩ := hinv.reset hr
  refine ⟨fun off v ha => portWrite_of_rst P ha v hr, fun r => ?_, ?_⟩
  · rw [portRead_offset, readReg_value P (by rw [hinv.notBusy hf, Bool.and_false]), hq]
  · rw [rstRelease_of_rst hr]
    exact ⟨rfl, rfl, rfl, resetDevice_mem_of_idle hf⟩

/-- Settles O41: the bits of the written STATUS, low, high and ERR_CODE; DONE low takes IRQ low. -/
theorem statusWriteClearsWrittenOnes : Obligations.StatusWriteClearsWrittenOnes := by
  intro P v s hr
  have hlow := getLsbD_statusWrite_low v s.regs.status
  refine ⟨_, portWrite_offset P .status v hr, fun k h1 h4 => ?_, fun k hk => ?_, statusErrCode_statusWrite v _,
    fun hv => ?_, rfl⟩
  · simpa [h1, h4] using hlow k (by omega)
  · rcases Nat.lt_or_ge k 8 with h8 | h8
    · have hout : ¬ (1 ≤ k ∧ k ≤ 4) := by omega
      simpa [hout] using hlow k h8
    · exact getLsbD_statusWrite_high v _ k (by omega)
  · have hdone : statusDone (statusWrite v s.regs.status) = false := by
      rw [statusDone, hlow 1 (by decide), hv]
      simp
    simp only [State.irq, Regs.irq, hdone, Bool.and_false]

/-- Settles O44: such an access is a recorded bus fault and no move clears a record. -/
theorem unsupportedAccessIsABusFault : Obligations.UnsupportedAccessIsABusFault := by
  refine ⟨fun P off width v s h => ?_, fun s t hs => (step_cases hs).faults_kept⟩
  have ha : accessSupported off width = false := by rwa [← Bool.not_eq_true, accessSupported_iff]
  exact ⟨portWrite_unsupported P ha v s, portRead_unsupported P ha s⟩

/-- Settles O35: a soft reset first, else the store and then the abort. -/
theorem ctrlWriteFollowsItsOrder : Obligations.CtrlWriteFollowsItsOrder := by
  intro P v s
  refine ⟨fun h9 => ⟨_, rfl, ctrlWrite_reset h9, ?_⟩, fun h9 => ⟨_, s.storeCtrl v, rfl, rfl, ctrlStored_toNat v, ?_,
    fun h8 => ctrlWrite_store h9 h8, fun h8 => ctrlWrite_abort h9 h8⟩⟩
  · rw [ctrlWrite_reset h9, resetDevice_regs]
  · cases h8 : ctrlAbort v
    · rw [ctrlWrite_store h9 h8]
    · rw [ctrlWrite_abort h9 h8, abort_ctrl]

/-- Settles O38: each register against the reset column; MAX_BLOCK fits in 32 bits. -/
theorem resetStateReadsAsTheTable : Obligations.ResetStateReadsAsTheTable := by
  intro P r
  refine ⟨?_, ?_, ?_, ?_, ?_, ?_, ?_, rfl, rfl⟩
  · rintro rfl; rfl
  · rintro rfl; rfl
  · rintro rfl; rfl
  · rintro rfl; exact u32_toNat (params_maxBlock_lt P)
  · rintro rfl; rfl
  · rintro rfl; rfl
  · intro h1 h2 h3 h4 h5 h6
    cases r <;> trivial

/-- Settles O39: the write is a store in one plain register, which a read of it gives back. -/
theorem writableRegistersReadBack : Obligations.WritableRegistersReadBack := by
  intro P r v s hr hp
  have hread : (r.isResult && statusBusy (s.regs.store r v).status) = false := by
    rw [Reg.isPlain.not_result hp, Bool.false_and]
  refine ⟨_, (portWrite_offset P r v hr).trans (writeReg_plain P hp v s), store_value_same P s.regs hp v, ?_,
    fun r' hne => store_value_of_ne P s.regs hne v, rfl⟩
  exact congrArg State.regData ((portRead_offset P r _).trans (readReg_value P hread))

/-- Settles O40: no write of a read-only register or at a reserved offset has an effect, whether RST is asserted or not. -/
theorem readOnlyAndReservedOffsetsIgnoreWrites : Obligations.ReadOnlyAndReservedOffsetsIgnoreWrites := by
  intro P v s
  refine ⟨fun r hro => ?_, fun off h1 h2 h4 => ?_, ?_⟩
  · cases hr : s.rst
    · rw [portWrite_offset P r v hr, writeReg_readOnly P hro]
    · exact portWrite_of_rst P (accessSupported_offset r) v hr
  · have ha : accessSupported off 32 = true := accessSupported_iff.2 ⟨rfl, h4, h2⟩
    constructor
    · simp [portWrite, ha, Reg.ofOffset_reserved h1]
    · simp [portRead, ha, Reg.ofOffset_reserved h1]
  · exact (portRead_offset P .cmd s).trans (readReg_value P rfl)

/-- Settles O42: the two cases of a read of a result register. -/
theorem resultReadWhileBusyIsADraw : Obligations.ResultReadWhileBusyIsADraw := by
  intro P r s hr
  rw [portRead_offset]
  exact ⟨readReg_draw P hr, fun hb => readReg_value P (by rw [hb, Bool.and_false])⟩

/-- Settles O45: the table of R23, and the decoding of an offset and of a platform address. -/
theorem registersStandAtTheirOffsets : Obligations.RegistersStandAtTheirOffsets :=
  ⟨rfl, fun _ _ => Reg.ofOffset_eq_some_iff, accessSupported_offset, fun _ _ _ => csrOffset_eq_some_iff⟩

end Sys2Proof.Machine
end

section
/-! PROOFS. The reset state: it meets the invariant, and what each command does when it is issued in it (R50, R253;
log 22). -/

namespace Sys2Proof.Safety

open Sys2Proof.Machine

/-! Commands in the reset state -/

/-- In the reset state TRANSFORM fails the check of BLOCK_SIZE (R102 check 4). -/
theorem issueCheck_reset_transform (P : Params) :
    issueCheck P .transform Regs.reset.latch = some (.unsupportedBlockSize, 0) := rfl

/-- In the reset state every other command passes its checks (R102). -/
theorem issueCheck_reset (P : Params) {i : Instr} (h : i ≠ .transform) : issueCheck P i Regs.reset.latch = none := by
  cases i
  case transform => exact absurd rfl h
  all_goals rfl

theorem windowsInMemory_reset (P : Params) : WindowsInMemory P Regs.reset.latch := ⟨rfl, rfl⟩

/-- The frame of an empty block is a header (R186). -/
theorem blockEnc_nil_frame_length (m : Nat) (sv : Bool) (dbg : Word) : (blockEnc [] m sv dbg).frame.length = 8 := by
  simp [blockEnc, encodeRaw, rawFrame, be32]

/-- On an empty source every command but TRANSFORM, BLOCK_ENC and BLOCK_DEC succeeds with empty output. -/
theorem commandResult_nil (P : Params) (c : Latched) {i : Instr} (ht : i ≠ .transform) (he : i ≠ .blockEnc)
    (hd : i ≠ .blockDec) : ∃ res : Result, commandResult P i c [] = .ok res ∧ res.out = [] := by
  cases i
  case transform => exact absurd rfl ht
  case blockEnc => exact absurd rfl he
  case blockDec => exact absurd rfl hd
  all_goals exact ⟨_, rfl, rfl⟩

/-- BLOCK_ENC on an empty source needs 8 bytes, which the empty window does not hold (R106, R186, R188). -/
theorem blockEnc_in_reset {t : State} (hm : Memory.wf t.mem) (hf : Flying t .blockEnc Regs.reset.latch) :
    ∃ u, exec .blockEnc t = .next u ∧ Failed Regs.reset.latch .outputOverflow 8 {} t u := by
  have hlen := blockEnc_nil_frame_length 255 true 0
  have h : ∃ u, exec .blockEnc t = .next u
      ∧ Failed Regs.reset.latch .outputOverflow (overflowInfo (blockEnc [] 255 true 0).frame.length) {} t u :=
    exec_overflows hm hf (windowsInMemory_reset _) rfl (hlen ▸ (by decide : 0 < 8))
  rwa [hlen] at h

/-- Settles O7: nothing is written, nothing is in flight, and the unit storage is that of a reset (log 11). -/
theorem invariantHoldsAtReset : Obligations.InvariantHoldsAtReset :=
  inv_of_idle ⟨reset_mem_wf, fun _ hx => absurd hx List.not_mem_nil⟩ (by decide : statusBusy Regs.reset.status = false)
    rfl regsWellFormed_reset Units.reset_wellFormed fun _ => rfl

/-- Settles O16: the issue by its check, then the completion on the empty source; BLOCK_ENC and BLOCK_DEC apart. -/
theorem commandsFromTheResetState : Obligations.CommandsFromTheResetState := by
  refine ⟨⟨_, exec_idle _ rfl, issueCommand_refused rfl (issueCheck_reset_transform _)⟩, fun i hi => ?_⟩
  have hissued : Issued i State.reset (issueCommand Config.params i State.reset) :=
    issueCommand_issued (issueCheck_reset Config.params hi)
  refine ⟨_, exec_idle i rfl, hissued, ?_⟩
  have hf : Flying (issueCommand Config.params i State.reset) i Regs.reset.latch := hissued.inFlight
  have hm : Memory.wf (issueCommand Config.params i State.reset).mem := by rw [hissued.memory]; exact reset_mem_wf
  by_cases he : i = .blockEnc
  · subst he
    obtain ⟨u, hu, h⟩ := blockEnc_in_reset hm hf
    exact ⟨u, hu, h.resLen, h.done, h.err, fun _ => ⟨h.errCode, h.errInfo⟩, fun hd => by cases hd⟩
  · by_cases hd : i = .blockDec
    · subst hd
      obtain ⟨u, hu, h⟩ := exec_fails hm hf (windowsInMemory_reset _) rfl
      exact ⟨u, hu, h.resLen, h.done, h.err, fun h' => absurd h' he, fun _ => ⟨h.errCode, h.errInfo⟩⟩
    · obtain ⟨res, hres, hout⟩ := commandResult_nil Config.params Regs.reset.latch hi he hd
      obtain ⟨u, hu, h⟩ := exec_succeeds hm hf (windowsInMemory_reset _) hres (by rw [hout]; exact Nat.zero_le _)
      refine ⟨u, hu, by rw [h.resLen, hout]; rfl, h.done, ?_, fun h' => absurd h' he, fun h' => absurd h' hd⟩
      rw [h.err, hissued.err, decide_eq_false (by simp [he, hd])]

end Sys2Proof.Safety
end

section
/-! PROOFS. What the pure functions of the commands give, in the form their completions report it: the streaming RLE encoder
is the greedy one (R165, R166), a well-formed payload decodes (R169), the inverse transform keeps the length (R134), a frame
is at most 8 bytes longer than its block (R186), and `transform` joins and counts the frames of its blocks (R202). -/

namespace Sys2Proof.Machine

/-! The BWT inverse -/

/-- With a source that is empty or an index below its length the inverse gives a block of that length (R134). -/
theorem bwtInv_of_index {L : List Byte} {p : Nat} (h : L.length = 0 ∨ p < L.length) :
    ∃ B, bwtInv L p = some B ∧ B.length = L.length := by
  unfold bwtInv
  by_cases h0 : L.length = 0
  · exact ⟨[], if_pos h0, h0.symm⟩
  · have hp : p < L.length := by omega
    exact ⟨_, by rw [if_neg h0, if_pos hp], by simp⟩

/-! The MTF passes -/

@[simp] theorem mtfEnc_length (X : List Byte) : (mtfEnc X).length = X.length := mtfEncFrom_length _ X

@[simp] theorem mtfDec_length (Y : List Byte) : (mtfDec Y).length = Y.length := mtfDecFrom_length _ Y

/-! The RLE encoders -/

/-- The FSM in a run of `r` takes the values that continue the run up to the cap, emits the pair, and starts again from
EMPTY (R166). -/
theorem rleEncFrom_run (m : Nat) (v : Byte) (r : Nat) (X : List Byte) :
    rleEncFrom m (.run v r) X
      = (v, r + runLength v (m - r) X) :: rleEncFrom m .empty (X.drop (runLength v (m - r) X)) := by
  induction X generalizing r with
  | nil => cases m - r <;> simp [rleEncFrom, runLength]
  | cons x X ih =>
    by_cases hx : x = v ∧ r < m
    · obtain ⟨rfl, hr⟩ := hx
      have hk : m - r = m - (r + 1) + 1 := by omega
      simp [rleEncFrom, runLength, hr, ih, hk, Nat.add_assoc, Nat.add_comm 1]
    · have hstop : runLength v (m - r) (x :: X) = 0 := by
        rcases Nat.lt_or_ge r m with hr | hr
        · have hk : m - r = m - r - 1 + 1 := by omega
          rw [hk, runLength, if_neg fun h => hx ⟨h, hr⟩]
        · rw [Nat.sub_eq_zero_of_le hr, runLength]
      rw [hstop, rleEncFrom, if_neg hx]
      rfl

/-- The FSM from EMPTY is the outer loop of R165, with enough rounds. -/
theorem rleEncFrom_empty (m fuel : Nat) (X : List Byte) (h : X.length ≤ fuel) :
    rleEncFrom m .empty X = rleGreedyFrom m fuel X := by
  induction fuel generalizing X with
  | zero => cases List.eq_nil_of_length_eq_zero (Nat.le_zero.1 h); rfl
  | succ fuel ih =>
    cases X with
    | nil => rfl
    | cons v X =>
      have hlen : (X.drop (runLength v (m - 1) X)).length ≤ fuel := by
        rw [List.length_cons] at h
        rw [List.length_drop]
        omega
      rw [rleEncFrom, rleEncFrom_run, rleGreedyFrom, ih _ hlen, Nat.add_comm 1]

/-- The streaming and the greedy encoder give equal pairs (R166). -/
theorem rleEnc_eq_rleGreedy (X : List Byte) (m : Nat) : rleEnc X m = rleGreedy X m :=
  rleEncFrom_empty m X.length X (Nat.le_refl _)

/-! The RLE decoder -/

/-- An even payload with no zero run decodes to its expansion (R169). -/
theorem rleDec_of_noZeroRun {X : List Byte} (h2 : X.length % 2 = 0)
    (hz : ∀ j, 2 * j + 1 < X.length → X.getD (2 * j + 1) 0 ≠ 0) : rleDec X = .ok (expandPairs X) := by
  have hodd : ¬ X.length % 2 = 1 := by omega
  rw [rleDec, if_neg hodd, firstZeroRun_none X 0 hz]

/-! The frame of a block -/

@[simp] theorem be32_length (w : Word) : (be32 w).length = 4 := rfl

@[simp] theorem rawFrame_length (Blk : List Byte) : (rawFrame Blk).length = Blk.length + 8 := by
  simp only [rawFrame, List.length_append, be32_length]; omega

@[simp] theorem xformFrame_length (p : Nat) (payload : List Byte) :
    (xformFrame p payload).length = payload.length + 8 := by
  simp only [xformFrame, List.length_append, be32_length]; omega

/-- A frame is at most 8 bytes longer than its block (R186). -/
theorem blockEnc_frame_length_le (Blk : List Byte) (m : Nat) (sv : Bool) (dbg : Word) :
    (blockEnc Blk m sv dbg).frame.length ≤ Blk.length + 8 := by
  unfold blockEnc
  dsimp only
  split_ifs <;> simp only [encodeRaw, encodeXform, rawFrame_length, xformFrame_length] <;> omega

/-! The running values of `transform` -/

/-- What `transform` has after emitting the frames `es`: the frames joined, their counts, and the last report (R202). -/
def TransformAcc.ofFrames (es : List EncodedBlock) : TransformAcc where
  out := es.flatMap (fun e => e.frame)
  blocks := es.length
  xblocks := (es.filter (fun e => e.info.xform)).length
  valmis := (es.map (fun e => e.valmis)).sum
  last := es.getLast?.map (fun e => e.info)

/-- One round of `transform` emits one more frame. -/
theorem transformBlock_ofFrames (m : Nat) (sv : Bool) (dbg : Word) (es : List EncodedBlock) (Blk : List Byte) :
    transformBlock m sv dbg (.ofFrames es) Blk = .ofFrames (es ++ [blockEnc Blk m sv dbg]) := by
  cases hx : (blockEnc Blk m sv dbg).info.xform <;> simp [transformBlock, TransformAcc.ofFrames, hx]

theorem foldl_transformBlock (m : Nat) (sv : Bool) (dbg : Word) (blocks : List (List Byte)) (es : List EncodedBlock) :
    blocks.foldl (transformBlock m sv dbg) (.ofFrames es)
      = .ofFrames (es ++ blocks.map (fun Blk => blockEnc Blk m sv dbg)) := by
  induction blocks generalizing es with
  | nil => simp
  | cons Blk blocks ih => rw [List.foldl_cons, transformBlock_ofFrames, ih, List.map_cons, List.append_assoc]; rfl

/-- `transform` emits the frames of the blocks of the partition, in order (R201, R202). -/
theorem transform_eq_ofFrames (S : List Byte) (c : Latched) :
    transform S c = .ofFrames ((partitionBlocks S c.wholeFile c.blockSize.toNat).map
      (fun Blk => blockEnc Blk c.maxRun.toNat c.selfValidate c.dbg)) :=
  foldl_transformBlock _ _ _ _ []

end Sys2Proof.Machine
end

section
/-! PROOFS. The completion of each command (R106, R107), and the frame of every completion (R227): the command's pure
function on the source window, whose output fits, then the shared completion. -/

namespace Sys2Proof.Safety

open Sys2Proof.Machine

/-! What a completion, success or error, leaves unchanged -/

/-- A completion writes no byte outside the destination window (R63, R70). -/
theorem finishCommand_sameOutsideDest {c : Latched} {v : CommandResult} (s : State)
    (hv : ∀ code info p, v = .err code info p → p.out.length ≤ c.dstCap.toNat) :
    SameOutsideDest c s (finishCommand c v s) := by
  intro a ha
  rw [inDest_eq_false] at ha
  rcases finishCommand_cases s hv with ⟨res, hlen, he⟩ | ⟨code, info, p, hlen, he⟩ <;> rw [he]
  · exact readByte_writeBytes_outside (by omega)
  · rw [errorCompletion_mem, readByte_fillFree_outside (by omega), readByte_writeBytes_outside (by omega)]

/-- A completion leaves CMD_OVR alone (R106, R108). -/
theorem finishCommand_cmdOvr (c : Latched) (v : CommandResult) (s : State) :
    statusCmdOvr (finishCommand c v s).regs.status = statusCmdOvr s.regs.status := by
  have hsucc : ∀ b, statusCmdOvr (statusSuccess b s.regs.status) = statusCmdOvr s.regs.status :=
    fun b => getLsbD_statusSuccess b _ 4
  have herr : ∀ code, statusCmdOvr (statusError code s.regs.status) = statusCmdOvr s.regs.status :=
    fun code => getLsbD_statusError code _ 4 (by decide)
  unfold finishCommand
  split
  · split
    · exact herr _
    · exact hsucc _
  · exact herr _

/-- A completion that leaves ERR at 0 leaves ERR_INFO alone: an error sets ERR (R108, R227). -/
theorem finishCommand_errInfo {c : Latched} {v : CommandResult} {s : State}
    (h : statusErr (finishCommand c v s).regs.status = false) :
    (finishCommand c v s).regs.errInfo = s.regs.errInfo := by
  have herr : ∀ code, statusErr (statusError code s.regs.status) = true :=
    fun code => getLsbD_statusError code _ 2 (by decide)
  unfold finishCommand at h ⊢
  split at h
  · split at h
    · cases (herr _).symm.trans h
    · rename_i hfit
      rw [if_neg hfit]
      simp
  · cases (herr _).symm.trans h

/-- Settles O32: the completion is `finishCommand`, and the output or the partial output fits in the window. -/
theorem completionChangesOnlyResultsAndDestination : Obligations.CompletionChangesOnlyResultsAndDestination := by
  intro i s t c hf h
  obtain ⟨-, u, rfl⟩ := exec_flying_next hf h
  refine ⟨by constructor <;> simp, exec_outside h, ?_, finishCommand_inFlight _ _ _, finishCommand_cmdOvr _ _ _,
    finishCommand_errInfo⟩
  exact finishCommand_sameOutsideDest s fun _ _ _ => commandResult_partial_fits

/-! The commands of the units -/

/-- Settles O17: the last column is as long as the source. -/
theorem bwtFwdCompletes : Obligations.BwtFwdCompletes := by
  intro s c hm hf hw hfit
  refine exec_succeeds hm hf hw ?_ (by simpa using hfit)
  simp [commandResult, runBwtFwd]

/-- Settles O18: the inverse gives a block of the source's length. -/
theorem bwtInvCompletes : Obligations.BwtInvCompletes := by
  intro s c hm hf hw hfit hp
  obtain ⟨B, hB, hlen⟩ := bwtInv_of_index (L := s.source c) (p := c.arg0.toNat) (by simpa using hp)
  rw [source_length] at hlen
  obtain ⟨t, ht, hsucc⟩ := exec_succeeds (res := { out := B, consumed := c.srcLen.toNat }) hm hf hw
    (by simp [commandResult, runBwtInv, hB]) (hlen ▸ hfit)
  exact ⟨t, B, hB, hlen, ht, hsucc⟩

/-- Settles O20: one index per source byte. -/
theorem mtfEncCompletes : Obligations.MtfEncCompletes := by
  intro s c hm hf hw hfit
  have hlen : (mtfEnc (s.source c)).length = c.srcLen.toNat := by simp
  obtain ⟨t, ht, hsucc⟩ := exec_succeeds (res := { out := mtfEnc (s.source c), consumed := c.srcLen.toNat }) hm hf hw
    (by simp [commandResult, runMtfEnc]) (hlen ▸ hfit)
  exact ⟨t, ht, hlen, hsucc⟩

/-- Settles O21: one byte per source index. -/
theorem mtfDecCompletes : Obligations.MtfDecCompletes := by
  intro s c hm hf hw hfit
  have hlen : (mtfDec (s.source c)).length = c.srcLen.toNat := by simp
  obtain ⟨t, ht, hsucc⟩ := exec_succeeds (res := { out := mtfDec (s.source c), consumed := c.srcLen.toNat }) hm hf hw
    (by simp [commandResult, runMtfDec]) (hlen ▸ hfit)
  exact ⟨t, ht, hlen, hsucc⟩

/-- Settles O22: the FSM's pairs are the greedy ones, two bytes each. -/
theorem rleEncCompletes : Obligations.RleEncCompletes := by
  intro s c hm hf hw hfit
  refine exec_succeeds hm hf hw ?_ (by simpa only [ser_length] using hfit)
  simp [commandResult, runRleEnc, rleEnc_eq_rleGreedy]

/-- Settles O23: such a payload decodes. -/
theorem rleDecCompletes : Obligations.RleDecCompletes := by
  intro s c hm hf hw h2 hz hfit
  rw [← source_length s c] at h2 hz
  refine exec_succeeds hm hf hw ?_ hfit
  simp [commandResult, runRleDec, rleDec_of_noZeroRun h2 hz]

/-! The container and its driver -/

/-- Settles O25: SRC_LEN + 8 bytes hold every frame of the source. -/
theorem blockEncCompletes : Obligations.BlockEncCompletes := by
  intro s c hm hf hw e hfit
  have hlen : e.frame.length ≤ c.srcLen.toNat + 8 := source_length s c ▸ blockEnc_frame_length_le _ _ _ _
  refine exec_succeeds hm hf hw ?_ (by dsimp only; omega)
  simp [commandResult, runBlockEnc, e]

/-- Settles O26: the command is block_dec at the start of the source. -/
theorem blockDecCompletes : Obligations.BlockDecCompletes := by
  intro s c Blk used f hm hf hw hd hfit
  refine exec_succeeds hm hf hw ?_ hfit
  simp [commandResult, runBlockDec, hd]

/-- Settles O28: the fold of `transform` is the frames of the partition, joined and counted. -/
theorem transformCompletes : Obligations.TransformCompletes := by
  intro s c hm hf hw encoded hfit
  refine exec_succeeds hm hf hw ?_ hfit
  simp only [commandResult, runTransform, transform_eq_ofFrames, TransformAcc.ofFrames, source_length, encoded]

/-- Settles O29: a loop that ends normally has read the whole source and kept within DST_CAP. -/
theorem inverseCompletes : Obligations.InverseCompletes := by
  intro s c a hm hf hw ha
  obtain ⟨hpos, hlen⟩ := inverse_done ha
  rw [source_length] at hpos
  obtain ⟨t, ht, hsucc⟩ := exec_succeeds
    (res := { out := a.out, consumed := c.srcLen.toNat, blocks := a.blocks, xblocks := a.xblocks, last := a.last })
    hm hf hw (by simp [commandResult, runInverse, ha]) hlen
  exact ⟨t, ht, hpos, hlen, hsucc⟩

end Sys2Proof.Safety
end

section
/-! PROOFS. The issue checks as R102 writes them, over the windows of R62 to R64. -/

namespace Sys2Proof.Machine

/-- A window is valid when it is empty or ends inside data memory, the sum unbounded (R62, R63). -/
theorem windowValid_iff {P : Params} {a len : Word} :
    windowValid P a len = true ↔ len.toNat = 0 ∨ a.toNat + len.toNat ≤ P.memSize := by
  simp [windowValid, BitVec.toNat_eq]

/-- Two windows that are not empty overlap when each starts before the other ends (R64). -/
theorem Latched.overlap_iff {c : Latched} :
    c.overlap = true ↔ 0 < c.srcLen.toNat ∧ 0 < c.dstCap.toNat
      ∧ c.srcAddr.toNat < c.dstAddr.toNat + c.dstCap.toNat ∧ c.dstAddr.toNat < c.srcAddr.toNat + c.srcLen.toNat := by
  simp [Latched.overlap, BitVec.toNat_eq, Nat.pos_iff_ne_zero, and_assoc]

theorem checksMaxRun_iff {i : Instr} : checksMaxRun i = true ↔ i = .rleEnc ∨ i = .blockEnc ∨ i = .transform := by
  cases i <;> simp [checksMaxRun]

theorem checksBlockSize_iff {w : Bool} {i : Instr} : checksBlockSize w i = true ↔ i = .transform ∧ w = false := by
  cases i <;> simp [checksBlockSize]

theorem checksSrcLen_iff {w : Bool} {i : Instr} :
    checksSrcLen w i = true ↔ i = .bwtFwd ∨ i = .bwtInv ∨ i = .blockEnc ∨ (i = .transform ∧ w = true) := by
  cases i <;> simp [checksSrcLen]

/-- Settles O11: each condition of the check, then the order in which they are tried. -/
theorem issueChecksFollowTheirOrder : Obligations.IssueChecksFollowTheirOrder := by
  intro P i c srcOk dstOk overlap regionBad maxRunBad sizeBad tooLarge
  have hregion : (!c.srcValid P || !c.dstValid P || c.overlap) = true ↔ regionBad := by
    simp only [Bool.or_eq_true, Bool.not_eq_true', ← Bool.not_eq_true, Latched.srcValid, Latched.dstValid,
      windowValid_iff, Latched.overlap_iff, or_assoc, regionBad, srcOk, dstOk, overlap]
  have hmaxRun : (checksMaxRun i && !(decide (1 ≤ c.maxRun.toNat) && decide (c.maxRun.toNat ≤ 255))) = true
      ↔ maxRunBad := by
    rw [Bool.and_eq_true, checksMaxRun_iff, ← Bool.decide_and, Bool.not_eq_true', decide_eq_false_iff_not]
  have hsize : (checksBlockSize c.wholeFile i && (c.blockSize == 0 || decide (P.maxBlock < c.blockSize.toNat))) = true
      ↔ sizeBad := by
    simp [checksBlockSize_iff, BitVec.toNat_eq, and_assoc, sizeBad]
  have hlarge : (checksSrcLen c.wholeFile i && decide (P.maxBlock < c.srcLen.toNat)) = true ↔ tooLarge := by
    rw [Bool.and_eq_true, checksSrcLen_iff, decide_eq_true_iff]
  simp only [issueCheck, hregion, hmaxRun, hsize, hlarge]
  refine ⟨fun h1 => ?_, fun h1 h2 => ?_, fun h1 h2 h3 => ?_, fun h1 h2 h3 h4 => ?_, fun h1 h2 h3 h4 => ?_⟩
  · rw [if_pos h1]
  · rw [if_neg h1, if_pos h2]
  · rw [if_neg h1, if_neg h2, if_pos h3]
  · rw [if_neg h1, if_neg h2, if_neg h3, if_pos h4]
  · rw [if_neg h1, if_neg h2, if_neg h3, if_neg h4]

end Sys2Proof.Machine
end

section
/-! PROOFS. The host's accesses: to data memory, with the window races of R72 and the limit of R60, and register reads
(R68). -/

namespace Sys2Proof.Machine

open Sys2Proof.Safety

/-! Window races (R72) -/

theorem isRace_idle {s : State} (h : s.inFlight = none) (a : Nat) (w : Bool) : isRace s a w = false := by
  simp [isRace, h]

theorem isRace_flying {s : State} {i : Instr} {c : Latched} (h : Flying s i c) (a : Nat) (w : Bool) :
    isRace s a w = (c.inDest a || (w && c.inSource a)) := by
  unfold isRace
  rw [h]

theorem inDest_iff {c : Latched} {a : Nat} :
    c.inDest a = true ↔ c.dstAddr.toNat ≤ a ∧ a < c.dstAddr.toNat + c.dstCap.toNat := by
  simp [Latched.inDest]

theorem inSource_iff {c : Latched} {a : Nat} :
    c.inSource a = true ↔ c.srcAddr.toNat ≤ a ∧ a < c.srcAddr.toNat + c.srcLen.toNat := by
  simp [Latched.inSource]

/-! The three ends of a host store and of a host load (R60, R72) -/

theorem hostStore_absent {P : Params} {a : Nat} (h : P.memSize ≤ a) (b : Byte) (s : State) :
    hostStore P a b s = .fault (.hostMemAbsent a) := if_pos h

theorem hostStore_race {P : Params} {a : Nat} {s : State} (h : a < P.memSize) (hr : isRace s a true = true) (b : Byte) :
    hostStore P a b s = .fault (.hostWindowRace a) := by
  rw [hostStore, if_neg (Nat.not_le.2 h), if_pos hr]

theorem hostStore_next {P : Params} {a : Nat} {s : State} (h : a < P.memSize) (hr : isRace s a true = false) (b : Byte) :
    hostStore P a b s = .next { s with mem := writeByte s.mem a b } := by
  rw [hostStore, if_neg (Nat.not_le.2 h), if_neg (by simp [hr])]

theorem hostLoad_absent {P : Params} {a : Nat} (h : P.memSize ≤ a) (s : State) :
    hostLoad P a s = .fault (.hostMemAbsent a) := if_pos h

theorem hostLoad_race {P : Params} {a : Nat} {s : State} (h : a < P.memSize) (hr : isRace s a false = true) :
    hostLoad P a s = .fault (.hostWindowRace a) := by
  rw [hostLoad, if_neg (Nat.not_le.2 h), if_pos hr]

theorem hostLoad_next {P : Params} {a : Nat} {s : State} (h : a < P.memSize) (hr : isRace s a false = false) :
    hostLoad P a s = .next { s with memData := readByte s.mem a } := by
  rw [hostLoad, if_neg (Nat.not_le.2 h), if_neg (by simp [hr])]

/-! The obligations -/

/-- Settles O46: the race test at an address, for a write and for a read. -/
theorem hostAccessToAWindowIsARace : Obligations.HostAccessToAWindowIsARace := by
  intro P s i c a b hf ha inSrc inDst
  have hwrite : isRace s a true = true ↔ inSrc ∨ inDst := by
    rw [isRace_flying hf, Bool.true_and, Bool.or_eq_true, inDest_iff, inSource_iff, or_comm]
  have hread : isRace s a false = true ↔ inDst := by
    rw [isRace_flying hf, Bool.false_and, Bool.or_false, inDest_iff]
  refine ⟨fun h => hostStore_race ha (hwrite.2 h) b, fun h => hostLoad_race ha (hread.2 h), fun hs hd => ?_,
    fun hd => ?_⟩
  · exact ⟨_, hostStore_next ha (Bool.eq_false_iff.2 (mt hwrite.1 (not_or.2 ⟨hs, hd⟩))) b⟩
  · exact hostLoad_next ha (Bool.eq_false_iff.2 (mt hread.1 hd))

/-- Settles O47: with nothing in flight there is no race, so the store is a write of one byte, which a load reads. -/
theorem hostStoreThenLoad : Obligations.HostStoreThenLoad := by
  intro P s a b hm hf
  refine ⟨fun ha => ⟨hostStore_absent ha b s, hostLoad_absent ha s⟩, fun ha => ?_⟩
  exact ⟨_, hostStore_next ha (isRace_idle hf a true) b, readByte_writeByte_same hm a b,
    fun a' hne => readByte_writeByte_of_ne hne, writeByte_wf hm a b, rfl,
    _, hostLoad_next ha (isRace_idle hf a false), readByte_writeByte_same hm a b⟩

/-- Settles O43: a read leaves the device as it was, and IRQ is a function of the registers. -/
theorem registerReadsHaveNoSideEffects : Obligations.RegisterReadsHaveNoSideEffects := by
  intro P off width s t
  have h : SameDevice s t := sameDevice_portRead P off width s
  exact ⟨h.regs, h.mem, h.inFlight, h.units, h.rst, congrArg Regs.irq h.regs⟩

end Sys2Proof.Machine
end

section
/-! PROOFS. The encoding family: a word by its two fields (R80), the opcode map (R81), and the words the decoder turns
away (R82). -/

namespace Sys2Proof.Machine

open Sys2Proof.Safety

/-! The fields of a command word -/

/-- OPCODE is the remainder of the word by 0x100 (R80). -/
@[simp] theorem opcodeField_toNat (w : Word) : (opcodeField w).toNat = w.toNat % 0x100 := by
  simp [opcodeField]

/-- RSVD is the quotient of the word by 0x100 (R80). -/
@[simp] theorem rsvdField_toNat (w : Word) : (rsvdField w).toNat = w.toNat / 0x100 := by
  have hlt : w.toNat < 2 ^ 32 := w.isLt
  simp only [rsvdField, BitVec.extractLsb'_toNat, Nat.shiftRight_eq_div_pow]
  omega

theorem rsvdField_eq_zero_iff {w : Word} : rsvdField w = 0 ↔ w.toNat < 0x100 := by
  rw [← BitVec.toNat_inj, rsvdField_toNat]
  exact Nat.div_eq_zero_iff_lt (by decide)

/-- The two fields are the whole word: no bit lies outside them (R80). -/
theorem rsvdField_append_opcodeField (w : Word) : rsvdField w ++ opcodeField w = w :=
  BitVec.extractLsb'_append_extractLsb'_eq_extractLsb' rfl |>.trans BitVec.extractLsb'_eq_self

/-! The opcode map -/

/-- The opcode map gives a command only for that command's opcode (R81). -/
theorem eq_opcode_of_decodeOpcode {op : BitVec 8} {i : Instr} (h : decodeOpcode op = some i) : op = i.opcode := by
  unfold decodeOpcode at h
  split at h <;> cases h <;> exact BitVec.eq_of_toNat_eq ‹_›

/-- The opcodes outside the map are 0x00 and those from 0x0B on (R82). -/
theorem decodeOpcode_eq_none_iff {op : BitVec 8} : decodeOpcode op = none ↔ op.toNat = 0x00 ∨ 0x0B ≤ op.toNat := by
  unfold decodeOpcode
  split
  case h_11 =>
    refine iff_of_true rfl ?_
    simp only [imp_false] at *
    omega
  all_goals exact iff_of_false nofun (by omega)

/-! The three answers of the decoder -/

theorem decodeWord_eq_reservedBits_iff {w : Word} : decodeWord w = .error .reservedBits ↔ rsvdField w ≠ 0 := by
  unfold decodeWord
  split_ifs with hr
  · refine iff_of_false ?_ (not_not_intro hr)
    split <;> exact nofun
  · exact iff_of_true rfl hr

theorem decodeWord_eq_reservedOpcode_iff {w : Word} :
    decodeWord w = .error .reservedOpcode ↔ rsvdField w = 0 ∧ decodeOpcode (opcodeField w) = none := by
  unfold decodeWord
  split_ifs with hr
  · split <;> simp [*]
  · exact iff_of_false nofun fun h => hr h.1

theorem decodeWord_eq_ok_iff {w : Word} {i : Instr} :
    decodeWord w = .ok i ↔ rsvdField w = 0 ∧ decodeOpcode (opcodeField w) = some i := by
  unfold decodeWord
  split_ifs with hr
  · split <;> simp [*]
  · exact iff_of_false nofun fun h => hr h.1

/-- A CMD write of a reserved word out of BUSY is the BAD_CMD refusal, whichever way the word is reserved (R82). -/
theorem cmdWrite_of_decode_error {w : Word} {e : DecodeError} {s : State} (hb : statusBusy s.regs.status = false)
    (hd : decodeWord w = .error e) : cmdWrite w s = .next (badCommand w s) := by
  simp [cmdWrite, hb, hd]

/-! The obligations -/

/-- Settles O2: the fields of a decoded word are those of the command's word, and they are all of it. -/
theorem decodeAndEncodeAgree : Obligations.DecodeAndEncodeAgree := by
  refine fun w i => ⟨fun h => ?_, fun h => h ▸ decodeWord_encode i⟩
  obtain ⟨hrsvd, hop⟩ := decodeWord_eq_ok_iff.1 h
  calc w = rsvdField w ++ opcodeField w := (rsvdField_append_opcodeField w).symm
    _ = (0 : BitVec 24) ++ i.opcode := by rw [hrsvd, eq_opcode_of_decodeOpcode hop]
    _ = encode i := rfl

/-- Settles O3: RSVD is tried first, and below 0x100 the opcode is the whole word. -/
theorem reservedWordsAreTurnedAwayByName : Obligations.ReservedWordsAreTurnedAwayByName := by
  refine fun w => ⟨?_, ?_⟩
  · rw [decodeWord_eq_reservedBits_iff, ne_eq, rsvdField_eq_zero_iff, Nat.not_lt]
  · rw [decodeWord_eq_reservedOpcode_iff, rsvdField_eq_zero_iff, decodeOpcode_eq_none_iff, opcodeField_toNat]
    exact and_congr_right fun hlt => by rw [Nat.mod_eq_of_lt hlt]

/-- Settles O14: a word with RSVD set, or with RSVD 0 and a reserved opcode, does not decode, so it is refused. -/
theorem reservedWordIsRefusedWithBadCmd : Obligations.ReservedWordIsRefusedWithBadCmd := by
  intro w s hf hb hw
  have hreserved : ∃ e, decodeWord w = .error e := by
    by_cases hr : rsvdField w = 0
    · have hlt : w.toNat < 0x100 := rsvdField_eq_zero_iff.1 hr
      have hop : decodeOpcode (opcodeField w) = none := by
        rw [decodeOpcode_eq_none_iff, opcodeField_toNat]
        omega
      exact ⟨_, decodeWord_eq_reservedOpcode_iff.2 ⟨hr, hop⟩⟩
    · exact ⟨_, decodeWord_eq_reservedBits_iff.2 hr⟩
  obtain ⟨e, he⟩ := hreserved
  exact ⟨_, cmdWrite_of_decode_error hb he, badCommand_refused hf⟩

/-- Settles O1: five of the words of R81 written out bit by bit. -/
theorem wordsOfTheOpcodeMapDecode : Obligations.WordsOfTheOpcodeMapDecode :=
  ⟨decodeWord_BWT_FWD, decodeWord_MTF_ENC, decodeWord_RLE_DEC, decodeWord_BLOCK_ENC, decodeWord_INVERSE⟩

end Sys2Proof.Machine
end

section
/-! PROOFS. The command family: issue (R100–R104, R113), a CMD write while BUSY (R111), the completion of every command in
flight (R106, R109, R110), its error ends (R108, R221), and the abort action (R112). -/

namespace Sys2Proof.Safety

open Sys2Proof.Machine

/-! Issue, and a CMD write while BUSY -/

/-- What is in flight after an issue on an idle device: the command that was issued, if anything. -/
theorem issueCommand_command {P : Params} {i : Instr} {s : State} {f : InFlight} (h : s.inFlight = none)
    (hf : (issueCommand P i s).inFlight = some f) : f.command = i := by
  cases hc : issueCheck P i s.regs.latch with
  | some e => cases (issueCommand_refused h hc).inFlight.symm.trans hf
  | none => cases (issueCommand_issued hc).inFlight.symm.trans hf; rfl

/-- While BUSY is 1 every CMD write is lost (R111). -/
theorem cmdWrite_of_busy {s : State} (h : statusBusy s.regs.status = true) (w : Word) :
    cmdWrite w s = .next (lostCommand s) := if_pos h

/-- A CMD write puts into flight only the command whose word it wrote (R82, R100). -/
theorem cmdWrite_starts {w : Word} {s t : State} {f : InFlight} (h : cmdWrite w s = .next t) (hs : s.inFlight = none)
    (ht : t.inFlight = some f) : w = encode f.command := by
  cases hb : statusBusy s.regs.status with
  | true =>
    cases (cmdWrite_of_busy hb w).symm.trans h
    cases hs.symm.trans ht
  | false =>
    cases hd : decodeWord w with
    | error e =>
      cases (cmdWrite_of_decode_error hb hd).symm.trans h
      cases hs.symm.trans ht
    | ok i =>
      cases (exec_idle i hs).symm.trans ((cmdWrite_of_decode hb hd).symm.trans h)
      rw [issueCommand_command hs ht]
      exact (decodeAndEncodeAgree w i).1 hd

/-- A CTRL write puts nothing into flight. -/
theorem ctrlWrite_idle (P : Params) (v : Word) {s : State} (h : s.inFlight = none) :
    (ctrlWrite P v s).inFlight = none := by
  rcases ctrlWrite_cases P v s with e | e | e <;> rw [e]
  · rfl
  · exact h
  · exact abort_inFlight _ _

/-- A register write puts a command into flight only as a CMD write of its word (R100). -/
theorem writeReg_starts {P : Params} {r : Reg} {v : Word} {s t : State} {f : InFlight}
    (h : writeReg P r v s = .next t) (hs : s.inFlight = none) (ht : t.inFlight = some f) :
    r = .cmd ∧ v = encode f.command := by
  rcases writeReg_cases h with rfl | ⟨-, rfl⟩ | ⟨-, rfl⟩ | ⟨hr, hcmd⟩ | ⟨-, rfl⟩
  · cases hs.symm.trans ht
  · cases hs.symm.trans ht
  · cases (ctrlWrite_idle P v hs).symm.trans ht
  · exact ⟨hr, cmdWrite_starts hcmd hs ht⟩
  · cases hs.symm.trans ht

theorem rstRelease_idle {s : State} (h : s.inFlight = none) : (rstRelease s).inFlight = none := by
  unfold rstRelease
  split
  · rfl
  · exact h

/-- Settles O9: of the things a step can do, only a register write starts a command, and it is a CMD write. -/
theorem onlyACmdWriteStartsACommand : Obligations.OnlyACmdWriteStartsACommand := by
  intro s t f hstep hs ht
  cases step_cases hstep with
  | quiet e => cases (e.inFlight.trans hs).symm.trans ht
  | write r v s0 e hw _ he =>
    obtain ⟨rfl, rfl⟩ := writeReg_starts he (e.inFlight.trans hs) ht
    exact hw
  | store a b s0 e _ he =>
    subst he
    cases (e.inFlight.trans hs).symm.trans ht
  | engine g s0 _ hg _ => cases hs.symm.trans hg
  | reset s0 e he =>
    rcases he with rfl | rfl
    · cases ht
    · cases (rstRelease_idle (e.inFlight.trans hs)).symm.trans ht

/-- Settles O12: on an idle device the step of a command is its issue. -/
theorem issueLatchesTheConfiguration : Obligations.IssueLatchesTheConfiguration :=
  fun i _ hs hc => ⟨_, exec_idle i hs, issueCommand_issued hc⟩

/-- Settles O13: on an idle device the step of a command is its issue. -/
theorem failedIssueCheckEndsTheCommand : Obligations.FailedIssueCheckEndsTheCommand :=
  fun i _ _ _ hs hc => ⟨_, exec_idle i hs, issueCommand_refused hs hc⟩

/-- Settles O15: a lost CMD write sets bit 4 of STATUS. -/
theorem cmdWriteWhileBusyIsLost : Obligations.CmdWriteWhileBusyIsLost := by
  intro w s hb
  have hbit : ∀ k, (setBit s.regs.status 4 true).getLsbD k = if k = 4 then true else s.regs.status.getLsbD k :=
    fun k => getLsbD_setBit _ 4 true k (by decide)
  exact ⟨_, cmdWrite_of_busy hb w, hbit 4, fun k hk => (hbit k).trans (if_neg hk), rfl⟩

/-! Completion, whichever way it ends -/

/-- Which way a completion ends, and with which result, is fixed by the command, its configuration and its source bytes:
it is the same from every state (R106, R110). -/
theorem finishCommand_ends (P : Params) (i : Instr) (c : Latched) (src : List Byte) :
    (∃ res : Result, res.out.length ≤ c.dstCap.toNat
        ∧ ∀ s, Memory.wf s.mem → Succeeded c res s (finishCommand c (commandResult P i c src) s))
    ∨ ∃ code info, ∃ p : Partial, p.out.length ≤ c.dstCap.toNat
        ∧ ∀ s, Memory.wf s.mem → Failed c code info p s (finishCommand c (commandResult P i c src) s) := by
  cases hv : commandResult P i c src with
  | ok res =>
    by_cases hfit : c.dstCap.toNat < res.out.length
    · refine .inr ⟨.outputOverflow, overflowInfo res.out.length, {}, Nat.zero_le _, fun s hm => ?_⟩
      rw [finishCommand, if_pos hfit]
      exact errorCompletion_failed hm (Nat.zero_le _)
    · refine .inl ⟨res, Nat.not_lt.1 hfit, fun s hm => ?_⟩
      rw [finishCommand, if_neg hfit]
      exact successCompletion_succeeded hm
  | err code info p =>
    have hp := commandResult_partial_fits hv
    exact .inr ⟨code, info, p, hp, fun s hm => errorCompletion_failed hm hp⟩

/-- Settles O6: the engine moves, its windows are in memory, and either end of the completion clears BUSY and sets DONE. -/
theorem commandInFlightCompletes : Obligations.CommandInFlightCompletes := by
  intro s hinv hsched hsome
  obtain ⟨f, hf⟩ := Option.isSome_iff_exists.1 hsome
  obtain ⟨u, hexec⟩ := exec_flying (i := f.command) (c := f.cfg) hf (hinv.windows hf)
  refine ⟨_, (step_of_inFlight hsched hf).trans ((engineMove_of_inFlight hf).trans hexec),
    finishCommand_inFlight _ _ _, ?_⟩
  rcases finishCommand_ends Config.params f.command f.cfg (s.source f.cfg)
    with ⟨res, -, hend⟩ | ⟨code, info, p, -, hend⟩
  · have e := hend s hinv.memWf
    exact ⟨e.busy, e.done⟩
  · have e := hend s hinv.memWf
    exact ⟨e.busy, e.done⟩

theorem SameResults.of_common {q r1 r2 : Regs} (h1 : SameResults q r1) (h2 : SameResults q r2) : SameResults r1 r2 :=
  ⟨h2.resLen.trans h1.resLen.symm, h2.resPrimary.trans h1.resPrimary.symm,
    h2.resConsumed.trans h1.resConsumed.symm, h2.resBlocks.trans h1.resBlocks.symm,
    h2.resXformBlocks.trans h1.resXformBlocks.symm, h2.resValMismatches.trans h1.resValMismatches.symm,
    h2.lastMode.trans h1.lastMode.symm, h2.lastRawLen.trans h1.lastRawLen.symm,
    h2.lastPayloadLen.trans h1.lastPayloadLen.symm, h2.lastHeader0.trans h1.lastHeader0.symm⟩

/-- Registers that hold the LAST_* of a frame are those `writeLast` writes, whatever it writes into (R107). -/
theorem LastRegsHold.eq_writeLast {r : Regs} {last : Option FrameInfo} (h : LastRegsHold r last) (q : Regs) :
    r.lastMode = (q.writeLast last).lastMode ∧ r.lastRawLen = (q.writeLast last).lastRawLen
      ∧ r.lastPayloadLen = (q.writeLast last).lastPayloadLen ∧ r.lastHeader0 = (q.writeLast last).lastHeader0 := by
  cases last with
  | none => exact h
  | some f => exact h

/-- The result registers after a success are those of its result (R107). -/
theorem Succeeded.results {c : Latched} {res : Result} {s t : State} (h : Succeeded c res s t) :
    SameResults (Regs.reset.writeResults res) t.regs := by
  obtain ⟨hmode, hraw, hpayload, hheader⟩ := h.last.eq_writeLast Regs.reset
  exact ⟨h.resLen, h.resPrimary, h.resConsumed, h.resBlocks, h.resXformBlocks, h.resValMismatches, hmode, hraw, hpayload,
    hheader⟩

/-- The result registers after an error are those of its partial result (R108). -/
theorem Failed.results {c : Latched} {code : ErrCode} {info : Word} {p : Partial} {s t : State}
    (h : Failed c code info p s t) : SameResults (Regs.reset.writePartial p) t.regs := by
  obtain ⟨hmode, hraw, hpayload, hheader⟩ := h.last.eq_writeLast Regs.reset
  exact ⟨h.resLen, h.resPrimary, h.resConsumed, h.resBlocks, h.resXformBlocks, h.resValMismatches, hmode, hraw, hpayload,
    hheader⟩

/-- The length of output that fits in the destination window is what RES_LEN holds (R8). -/
theorem u32_toNat_of_fits {c : Latched} {n : Nat} (h : n ≤ c.dstCap.toNat) : (u32 n).toNat = n :=
  u32_toNat (Nat.lt_of_le_of_lt h c.dstCap.isLt)

/-- Settles O33: both states complete with the value of one pure function, so they end the same way with one result. -/
theorem resultsDependOnlyOnConfigurationAndSource : Obligations.ResultsDependOnlyOnConfigurationAndSource := by
  intro i s1 s2 t1 c hm1 hm2 hf1 hf2 hsrc hinfo h
  obtain ⟨hw, u1, rfl⟩ := exec_flying_next hf1 h
  obtain ⟨u2, he2⟩ := exec_flying hf2 hw
  refine ⟨_, he2, ?_⟩
  rw [← hsrc]
  rcases finishCommand_ends Config.params i c (s1.source c) with ⟨res, hlen, hend⟩ | ⟨code, info, p, hlen, hend⟩
  · have e1 := hend s1 hm1
    have e2 := hend s2 hm2
    refine ⟨e1.results.of_common e2.results, (e2.errInfo.trans hinfo.symm).trans e1.errInfo.symm, ?_⟩
    rw [e1.resLen, u32_toNat_of_fits hlen]
    exact e2.output.trans e1.output.symm
  · have e1 := hend s1 hm1
    have e2 := hend s2 hm2
    refine ⟨e1.results.of_common e2.results, e2.errInfo.trans e1.errInfo.symm, ?_⟩
    rw [e1.resLen, u32_toNat_of_fits hlen]
    exact e2.output.trans e1.output.symm

/-! The error ends of the commands -/

/-- A nonempty last column with an index past its end has no inverse (R134). -/
theorem bwtInv_of_badIndex {L : List Byte} {p : Nat} (h0 : 0 < L.length) (hp : L.length ≤ p) : bwtInv L p = none := by
  rw [bwtInv, if_neg (Nat.pos_iff_ne_zero.1 h0), if_neg (Nat.not_lt.2 hp)]

/-- Settles O19: the inverse fails, before DST_CAP is looked at. -/
theorem bwtInvReportsABadIndex : Obligations.BwtInvReportsABadIndex := by
  intro s c hm hf hw h0 hp
  rw [← source_length s c] at h0 hp
  refine exec_fails hm hf hw ?_
  simp [commandResult, runBwtInv, bwtInv_of_badIndex h0 hp]

theorem rleDec_of_odd {X : List Byte} (h : X.length % 2 = 1) : rleDec X = .error (X.length - 1) := if_pos h

/-- An even payload fails at the lowest pair with a zero run (R169). -/
theorem rleDec_of_zeroRun {X : List Byte} {j : Nat} (h2 : X.length % 2 = 0) (hj : 2 * j + 1 < X.length)
    (hz : X.getD (2 * j + 1) 0 = 0) (hlow : ∀ k, k < j → X.getD (2 * k + 1) 0 ≠ 0) : rleDec X = .error (2 * j) := by
  have hodd : ¬ X.length % 2 = 1 := by omega
  rw [rleDec, if_neg hodd, firstZeroRun_some X 0 j hj hz hlow, Nat.zero_add]

/-- RLE_DEC of a payload that does not decode ends at the decoder's offset (R173). -/
theorem rleDec_fails {s : State} {c : Latched} {off : Nat} (hm : Memory.wf s.mem) (hf : Flying s .rleDec c)
    (hw : WindowsInMemory Config.params c) (hd : rleDec (s.source c) = .error off) :
    ∃ t, exec .rleDec s = .next t ∧ Failed c .corruptPayload (u32 off) {} s t :=
  exec_fails hm hf hw (by simp [commandResult, runRleDec, hd])

/-- Settles O24: the two ways the decoder fails. -/
theorem rleDecReportsACorruptPayload : Obligations.RleDecReportsACorruptPayload := by
  intro s c hm hf hw
  rw [← source_length s c]
  exact ⟨fun h => rleDec_fails hm hf hw (rleDec_of_odd h),
    fun j h2 hj hz hlow => rleDec_fails hm hf hw (rleDec_of_zeroRun h2 hj hz hlow)⟩

/-- Settles O27: the command is block_dec at the start of the source. -/
theorem blockDecReportsABadFrame : Obligations.BlockDecReportsABadFrame := by
  intro s c code hm hf hw hd
  refine exec_fails hm hf hw ?_
  simp [commandResult, runBlockDec, hd]

/-- INVERSE succeeds only with output that fits (R207). -/
theorem inverse_result_fits {P : Params} {c : Latched} {src : List Byte} {res : Result}
    (h : commandResult P .inverse c src = .ok res) : res.out.length ≤ c.dstCap.toNat := by
  simp only [commandResult, runInverse] at h
  split at h <;> cases h
  rename_i a ha
  exact (inverse_done ha).2

/-- Settles O31: the shared completion compares the output with DST_CAP, and `inverse` has done so itself. -/
theorem outputOverflowReportsTheNeededLength : Obligations.OutputOverflowReportsTheNeededLength :=
  ⟨fun _ _ _ _ hm hf hw hr hfit => exec_overflows hm hf hw hr hfit, fun _ _ _ _ h => inverse_result_fits h⟩

/-! Abort (R112) -/

theorem abort_idle (P : Params) {s : State} (h : s.inFlight = none) : abort P s = s := by
  unfold abort
  rw [h]

/-- An abort is the error completion ABORTED with no defined output, but for the unit storage and the draw it takes. -/
theorem abort_eq_errorCompletion (P : Params) {s : State} {f : InFlight} (h : s.inFlight = some f) :
    ∃ u d, abort P s = { errorCompletion f.cfg .aborted 0 {} s with units := u, draws := d } := by
  unfold abort
  rw [h]
  exact ⟨_, _, rfl⟩

/-- The draw counter has no part in what an error says about the state after it. -/
theorem failed_with_draws {c : Latched} {code : ErrCode} {info : Word} {p : Partial} {s t : State}
    (h : Failed c code info p s t) (d : Nat) : Failed c code info p s { t with draws := d } :=
  { h with outside := { h.outside with } }

/-- An abort ends the command in flight as an error with no defined output (R112). -/
theorem abort_failed (P : Params) {s : State} {f : InFlight} (h : s.inFlight = some f) (hm : Memory.wf s.mem) :
    Failed f.cfg .aborted 0 {} s (abort P s) := by
  obtain ⟨u, d, he⟩ := abort_eq_errorCompletion P h
  rw [he]
  exact failed_with_draws (failed_with_units (errorCompletion_failed hm (Nat.zero_le _)) u) d

/-- Settles O34: an abort is the error completion ABORTED with no defined output. -/
theorem abortEndsTheCommandWithNothing : Obligations.AbortEndsTheCommandWithNothing := by
  refine fun P s => ⟨abort_idle P, fun f hf hm => ?_⟩
  have h := abort_failed P hf hm
  exact ⟨h.inFlight, h.busy, h.done, h.err, h.errCode, h.errInfo, h.valMismatch, h.cmdOvr, h.results, h.config,
    h.outside, h.memory, fun k hk => h.draws k (Nat.zero_le k) hk⟩

end Sys2Proof.Safety
end

section
/-! PROOFS. `inverse` frame by frame (R205–R207): a frame that decodes reads its own bytes only (R187), and the loop over
A ++ B, where A decodes whole, goes on at the start of B with what A gave. -/

namespace Sys2Proof.Machine

open Sys2Proof.Safety

/-! A frame decode reads the frame's bytes only -/

theorem rdBe32_append_left {X Y : List Byte} {k : Nat} (h : k + 4 ≤ X.length) : rdBe32 (X ++ Y) k = rdBe32 X k := by
  have hget : ∀ j, j < X.length → (X ++ Y).getD j 0 = X.getD j 0 := fun j hj => List.getD_append X Y 0 j hj
  simp only [rdBe32, hget k (by omega), hget (k + 1) (by omega), hget (k + 2) (by omega), hget (k + 3) (by omega)]

/-- A frame that decodes is its header and as many payload bytes as the header says (R84, R187). -/
theorem blockDec_used_eq {maxBlock : Nat} {S : List Byte} {Blk : List Byte} {used : Nat} {f : FrameInfo}
    (h : blockDec maxBlock S 0 = .ok (Blk, used, f)) : used = 8 + rdBe32 S 4 := by
  unfold blockDec at h
  dsimp only at h
  split_ifs at h <;> cases h <;> rfl

/-- What follows a complete frame has no part in its decode (R187). -/
theorem blockDec_append {maxBlock : Nat} {F : List Byte} (hF : F.length = 8 + rdBe32 F 4) (R : List Byte) :
    blockDec maxBlock (F ++ R) 0 = blockDec maxBlock F 0 := by
  have h0 : rdBe32 (F ++ R) 0 = rdBe32 F 0 := rdBe32_append_left (by omega)
  have h1 : rdBe32 (F ++ R) 4 = rdBe32 F 4 := rdBe32_append_left (by omega)
  have hpayload : ((F ++ R).drop 8).take (rdBe32 F 4) = (F.drop 8).take (rdBe32 F 4) := by
    rw [List.drop_append_of_le_length (by omega), List.take_append_of_le_length (by rw [List.length_drop]; omega)]
  have hheader : ¬ F.length < 8 := by omega
  have hheader' : ¬ (F ++ R).length < 8 := by rw [List.length_append]; omega
  have hroom : ¬ F.length - 8 < rdBe32 F 4 := by omega
  have hroom' : ¬ (F ++ R).length - 8 < rdBe32 F 4 := by rw [List.length_append]; omega
  simp only [blockDec, Nat.sub_zero, Nat.zero_add, h0, h1, hpayload, if_neg hheader, if_neg hheader', if_neg hroom,
    if_neg hroom']

/-- The bytes a decoded frame uses, alone or with anything after them, decode as it does (R187). -/
theorem blockDec_take_append {maxBlock : Nat} {S : List Byte} {Blk : List Byte} {used : Nat} {f : FrameInfo}
    (h : blockDec maxBlock S 0 = .ok (Blk, used, f)) (R : List Byte) :
    blockDec maxBlock (S.take used ++ R) 0 = .ok (Blk, used, f) := by
  obtain ⟨h8, hle⟩ := blockDec_used h
  have hlen : (S.take used).length = used := List.length_take_of_le (by omega)
  have hsplit : S = S.take used ++ S.drop used := (List.take_append_drop used S).symm
  have hfield : rdBe32 S 4 = rdBe32 (S.take used) 4 := by
    conv_lhs => rw [hsplit]
    exact rdBe32_append_left (by omega)
  have hF : (S.take used).length = 8 + rdBe32 (S.take used) 4 := by rw [hlen, ← hfield, ← blockDec_used_eq h]
  calc blockDec maxBlock (S.take used ++ R) 0
      = blockDec maxBlock (S.take used) 0 := blockDec_append hF R
    _ = blockDec maxBlock (S.take used ++ S.drop used) 0 := (blockDec_append hF _).symm
    _ = .ok (Blk, used, f) := by rw [← hsplit]; exact h

/-- A frame that decodes inside A decodes the same inside A ++ B. -/
theorem blockDec_append_right {maxBlock : Nat} {A : List Byte} {start : Nat} {Blk : List Byte} {used : Nat}
    {f : FrameInfo} (h : blockDec maxBlock A start = .ok (Blk, used, f)) (B : List Byte) :
    blockDec maxBlock (A ++ B) start = .ok (Blk, used, f) := by
  obtain ⟨-, hle⟩ := blockDec_used h
  rw [blockDec_drop] at h ⊢
  rw [List.drop_append_of_le_length (by omega), ← List.take_append_drop used (A.drop start), List.append_assoc]
  exact blockDec_take_append h _

/-- A frame at the start of B stands at offset A.length of A ++ B. -/
theorem blockDec_append_left (maxBlock : Nat) (A B : List Byte) :
    blockDec maxBlock (A ++ B) A.length = blockDec maxBlock B 0 := by
  rw [blockDec_drop, List.drop_left]

/-! One round of the loop -/

section
variable {maxBlock : Nat} {S : List Byte} {cap fuel : Nat} {a : InverseAcc}

theorem inverseLoop_end (h : a.pos = S.length) : inverseLoop maxBlock S cap fuel a = .done a := by
  cases fuel with
  | zero => rfl
  | succ fuel => exact if_pos h

theorem inverseLoop_bad {code : ErrCode} (h : a.pos ≠ S.length) (hd : blockDec maxBlock S a.pos = .error code) :
    inverseLoop maxBlock S cap (fuel + 1) a = .failed code a := by
  rw [inverseLoop, if_neg h, hd]

theorem inverseLoop_tooLarge {Blk : List Byte} {used : Nat} {f : FrameInfo} (h : a.pos ≠ S.length)
    (hd : blockDec maxBlock S a.pos = .ok (Blk, used, f)) (hc : cap < a.out.length + Blk.length) :
    inverseLoop maxBlock S cap (fuel + 1) a = .failed .outputOverflow a := by
  rw [inverseLoop, if_neg h, hd]
  exact if_pos hc

theorem inverseLoop_frame {Blk : List Byte} {used : Nat} {f : FrameInfo} (h : a.pos ≠ S.length)
    (hd : blockDec maxBlock S a.pos = .ok (Blk, used, f)) (hc : a.out.length + Blk.length ≤ cap) :
    inverseLoop maxBlock S cap (fuel + 1) a = inverseLoop maxBlock S cap fuel (a.append Blk used f) := by
  rw [inverseLoop, if_neg h, hd]
  exact if_neg (Nat.not_lt.2 hc)

end

/-! The loop over A ++ B -/

/-- Where the loop over A ends normally, the loop over A ++ B reaches the same running values, with a round left for each
byte of B: a frame takes one round and at least one byte (R205). -/
theorem inverseLoop_append {maxBlock : Nat} {A B : List Byte} {cap fuel fuel' : Nat} {a b : InverseAcc}
    (hend : inverseLoop maxBlock A cap fuel a = .done b) (hpos : a.pos ≤ A.length)
    (hfuel : A.length + B.length ≤ a.pos + fuel') :
    ∃ rest, B.length ≤ rest
      ∧ inverseLoop maxBlock (A ++ B) cap fuel' a = inverseLoop maxBlock (A ++ B) cap rest b := by
  fun_induction inverseLoop maxBlock A cap fuel a generalizing fuel' with
  | case1 => cases hend; exact ⟨fuel', by omega, rfl⟩
  | case2 => cases hend; exact ⟨fuel', by omega, rfl⟩
  | case3 => cases hend
  | case4 => cases hend
  | case5 fuel a hp Blk used f hd hc ih =>
    obtain ⟨h8, hu⟩ := blockDec_used hd
    obtain ⟨n, rfl⟩ : ∃ n, fuel' = n + 1 := ⟨fuel' - 1, by omega⟩
    have hpAB : a.pos ≠ (A ++ B).length := by rw [List.length_append]; omega
    rw [inverseLoop_frame hpAB (blockDec_append_right hd B) (Nat.not_lt.1 hc)]
    have hmoved : (a.append Blk used f).pos = a.pos + used := rfl
    exact ih hend (by omega) (by omega)

/-- `inverse` of A ++ B, where A decodes whole, is the loop from the start of B with what A gave. -/
theorem inverse_append {maxBlock cap : Nat} {A : List Byte} {a : InverseAcc} (h : inverse maxBlock A cap = .done a)
    (B : List Byte) :
    ∃ rest, B.length ≤ rest ∧ inverse maxBlock (A ++ B) cap = inverseLoop maxBlock (A ++ B) cap rest a :=
  inverseLoop_append h (Nat.zero_le _) (by simp)

/-! What stands at the start of B -/

section
variable {maxBlock cap : Nat} {A B : List Byte} {a : InverseAcc}

/-- Where A decodes whole and B is not empty, the round at the start of B is the next one, and it decodes the frame
there. -/
theorem inverse_append_round (ha : inverse maxBlock A cap = .done a) (hB : B ≠ []) :
    ∃ rest, inverse maxBlock (A ++ B) cap = inverseLoop maxBlock (A ++ B) cap (rest + 1) a
      ∧ a.pos ≠ (A ++ B).length ∧ blockDec maxBlock (A ++ B) a.pos = blockDec maxBlock B 0 := by
  have hlen : 0 < B.length := List.length_pos_of_ne_nil hB
  have hpos : a.pos = A.length := (inverse_done ha).1
  obtain ⟨rest, hrest, he⟩ := inverse_append ha B
  refine ⟨rest - 1, ?_, ?_, ?_⟩
  · rw [Nat.sub_add_cancel (by omega), he]
  · rw [List.length_append]; omega
  · rw [hpos, blockDec_append_left]

theorem inverse_append_bad {code : ErrCode} (ha : inverse maxBlock A cap = .done a) (hB : B ≠ [])
    (hd : blockDec maxBlock B 0 = .error code) : inverse maxBlock (A ++ B) cap = .failed code a := by
  obtain ⟨rest, he, hp, hb⟩ := inverse_append_round ha hB
  rw [he, inverseLoop_bad hp (hb.trans hd)]

theorem ne_nil_of_blockDec {Blk : List Byte} {used : Nat} {f : FrameInfo}
    (hd : blockDec maxBlock B 0 = .ok (Blk, used, f)) : B ≠ [] := by
  rintro rfl
  cases hd

theorem inverse_append_tooLarge {Blk : List Byte} {used : Nat} {f : FrameInfo}
    (ha : inverse maxBlock A cap = .done a) (hd : blockDec maxBlock B 0 = .ok (Blk, used, f))
    (hc : cap < a.out.length + Blk.length) : inverse maxBlock (A ++ B) cap = .failed .outputOverflow a := by
  obtain ⟨rest, he, hp, hb⟩ := inverse_append_round ha (ne_nil_of_blockDec hd)
  rw [he, inverseLoop_tooLarge hp (hb.trans hd) hc]

/-- A frame that decodes and fits is appended to what A gave (R205). -/
theorem inverse_append_frame {Blk : List Byte} {used : Nat} {f : FrameInfo}
    (ha : inverse maxBlock A cap = .done a) (hd : blockDec maxBlock B 0 = .ok (Blk, used, f))
    (hc : a.out.length + Blk.length ≤ cap) :
    inverse maxBlock (A ++ B.take used) cap = .done (a.append Blk used f) := by
  have hframe : blockDec maxBlock (B.take used) 0 = .ok (Blk, used, f) := by
    simpa using blockDec_take_append hd []
  have hend : (a.append Blk used f).pos = (A ++ B.take used).length := by
    obtain ⟨-, hu⟩ := blockDec_used hd
    rw [List.length_append, List.length_take_of_le (by omega), ← (inverse_done ha).1]
    rfl
  obtain ⟨rest, he, hp, hb⟩ := inverse_append_round ha (ne_nil_of_blockDec hframe)
  rw [he, inverseLoop_frame hp (hb.trans hframe) hc, inverseLoop_end hend]

end

/-- Settles O30: the command reports how `inverse` ended, and `inverse` of A ++ B goes on at the start of B. -/
theorem inverseKeepsTheDecodedPrefix : Obligations.InverseKeepsTheDecodedPrefix := by
  refine ⟨fun s c code a hm hf hw ha => ?_, fun _ _ => rfl, fun maxBlock cap A B a ha => ⟨(inverse_done ha).1,
    fun code hB hd => inverse_append_bad ha hB hd, fun Blk used f hd => ⟨inverse_append_tooLarge ha hd, fun hc => ?_⟩⟩⟩
  · obtain ⟨t, ht, hfail⟩ := exec_fails (code := code) (info := u32 a.pos) (p := a.part) hm hf hw
      (by simp [commandResult, runInverse, ha])
    exact ⟨t, ht, inverse_failed ha, hfail⟩
  · exact ⟨_, inverse_append_frame ha hd hc, rfl, rfl, rfl, rfl, rfl⟩

end Sys2Proof.Machine
end

section
/-! PROOFS. The BWT family (R130–R135). Rotations and bytes are compared through keys in a linear order, ties broken by index;
LF(i) is the rank of i among the bytes of L, so it numbers the columns in their order, and a step of LF goes from a rotation
to the one that starts a byte earlier. -/

namespace Sys2Proof.Machine

open Sys2Proof.Safety

/-! Indices sorted by a key -/

section
variable {κ : Type} [LinearOrder κ] {key : Nat → κ}

/-- Indices sorted by a key that no two of them share rise strictly. -/
theorem insertionSort_range_pairwise {r : Nat → Nat → Prop} [DecidableRel r] (hr : ∀ i j, r i j ↔ key i ≤ key j)
    (hkey : Function.Injective key) (n : Nat) :
    ((List.range n).insertionSort r).Pairwise (fun i j => key i < key j) := by
  have htotal : Std.Total r := ⟨fun i j => by simpa only [hr] using le_total (key i) (key j)⟩
  have htrans : IsTrans Nat r := ⟨fun i j k => by simpa only [hr] using le_trans⟩
  have hnodup := (List.perm_insertionSort r (List.range n)).nodup_iff.2 List.nodup_range
  refine ((List.pairwise_insertionSort r _).and hnodup).imp fun {i j} ⟨hle, hne⟩ => ?_
  exact lt_of_le_of_ne ((hr i j).1 hle) (hkey.ne hne)

/-- In a list that rises strictly, the entry at position k has k entries below it. -/
theorem countP_key_lt_getElem {l : List Nat} (h : l.Pairwise (fun i j => key i < key j)) {k : Nat} (hk : k < l.length) :
    l.countP (fun j => decide (key j < key l[k])) = k := by
  induction l generalizing k with
  | nil => cases hk
  | cons a l ih =>
    obtain ⟨ha, hl⟩ := List.pairwise_cons.1 h
    cases k with
    | zero => simpa [List.countP_eq_zero] using fun b hb => (ha b hb).le
    | succ k =>
      have hk' : k < l.length := by simpa using hk
      simpa [ha _ (List.getElem_mem hk')] using ih hl hk'

end

/-! Lists read by index -/

theorem map_range_getD {α : Type} (l : List α) (d : α) : (List.range l.length).map (fun i => l.getD i d) = l :=
  List.ext_getElem (by simp) fun k _ hk => by simp [hk]

theorem take_succ_eq_append_getD {α : Type} {l : List α} {i : Nat} (h : i < l.length) (d : α) :
    l.take (i + 1) = l.take i ++ [l.getD i d] := by
  rw [List.getD_eq_getElem _ _ h, List.take_succ_eq_append_getElem h]

/-! Byte strings in the order of R13 -/

/-- The bytes as numbers: Lean's order on lists of numbers is then the order of R13. -/
def digits (X : List Byte) : List Nat := X.map BitVec.toNat

@[simp] theorem digits_cons (x : Byte) (X : List Byte) : digits (x :: X) = x.toNat :: digits X := rfl

theorem digits_append (X Y : List Byte) : digits (X ++ Y) = digits X ++ digits Y := List.map_append

theorem digits_injective : Function.Injective digits := List.map_injective_iff.2 BitVec.toNat_injective

theorem lexLt_iff {X Y : List Byte} (hl : X.length = Y.length) : lexLt X Y = true ↔ digits X < digits Y := by
  induction X generalizing Y with
  | nil => cases Y <;> simp_all [lexLt]
  | cons x X ih =>
    cases Y with
    | nil => cases hl
    | cons y Y =>
      simp [lexLt, ih (Nat.succ.inj hl), List.cons_lt_cons_iff, BitVec.toNat_inj]

theorem lexBefore_cons {X Y : List Byte} (h : LexBefore X Y) (b : Byte) : LexBefore (b :: X) (b :: Y) := by
  obtain ⟨k, hk, heq, hlt⟩ := h
  exact ⟨k + 1, Nat.succ_lt_succ hk, by simp [heq], by simpa using hlt⟩

theorem lexBefore_of_lexLt {X Y : List Byte} (h : lexLt X Y = true) : LexBefore X Y := by
  induction X generalizing Y with
  | nil => cases h
  | cons x X ih =>
    cases Y with
    | nil => cases h
    | cons y Y =>
      rcases (by simpa [lexLt] using h : x.toNat < y.toNat ∨ x = y ∧ lexLt X Y = true) with hlt | ⟨rfl, hlt⟩
      · exact ⟨0, by simp, rfl, hlt⟩
      · exact lexBefore_cons (ih hlt) x

theorem append_lt_append_of_lt {X Y : List Nat} (hl : X.length = Y.length) (h : X < Y) (U V : List Nat) :
    X ++ U < Y ++ V := by
  induction X generalizing Y with
  | nil => cases Y <;> simp_all
  | cons x X ih =>
    cases Y with
    | nil => cases hl
    | cons y Y =>
      exact List.cons_lt_cons_iff.2 ((List.cons_lt_cons_iff.1 h).imp_right (And.imp_right (ih (Nat.succ.inj hl))))

/-! The rotation order (R130) -/

@[simp] theorem rot_zero (B : List Byte) : rot B 0 = B := by
  refine List.ext_getElem (rot_length B 0) fun k _ hk => ?_
  simp [rot, Nat.mod_eq_of_lt hk, hk]

@[simp] theorem rot_self_length (B : List Byte) : rot B B.length = B := by
  simpa [rot] using rot_zero B

/-- The index one before i, cyclically: (i - 1) mod n, as bwt_fwd writes it (R132). -/
def cyclicPred (n i : Nat) : Nat := (i + n - 1) % n

/-- The byte before index i, cyclically: what bwt_fwd takes at i (R132). -/
def byteBefore (B : List Byte) (i : Nat) : Byte := B.getD (cyclicPred B.length i) 0

/-- The rotation that starts one byte earlier has the last byte in front. -/
theorem rot_pred {B : List Byte} (h : B ≠ []) (i : Nat) :
    ∃ X, rot B i = X ++ [byteBefore B i] ∧ rot B (cyclicPred B.length i) = byteBefore B i :: X := by
  obtain ⟨m, hm⟩ := Nat.exists_eq_succ_of_ne_zero (mt List.length_eq_zero_iff.1 h)
  refine ⟨(List.range m).map fun k => B.getD ((i + k) % (m + 1)) 0, ?_, ?_⟩
  · simp [rot, byteBefore, cyclicPred, hm, List.range_succ]
  · have hnext : ∀ k, i + m + (k + 1) = i + k + (m + 1) := by omega
    simp [rot, byteBefore, cyclicPred, hm, List.range_succ_eq_map, Function.comp_def, hnext]

/-- Equal rotations are still equal one byte earlier. -/
theorem rot_pred_congr {B : List Byte} {i j : Nat} (h : rot B i = rot B j) :
    byteBefore B i = byteBefore B j ∧ rot B (cyclicPred B.length i) = rot B (cyclicPred B.length j) := by
  rcases eq_or_ne B [] with rfl | hB
  · exact ⟨rfl, rfl⟩
  obtain ⟨X, hi, hi'⟩ := rot_pred hB i
  obtain ⟨Y, hj, hj'⟩ := rot_pred hB j
  obtain ⟨rfl, hb⟩ := List.append_inj' (hi.symm.trans (h.trans hj)) rfl
  have hb' := List.singleton_inj.1 hb
  exact ⟨hb', by rw [hi', hj', hb']⟩

/-- Where the last byte of one rotation is below that of the other, or they agree and the rotations are in order, the
rotations one byte earlier are in order. -/
theorem digits_rot_pred_le {B : List Byte} {i j : Nat}
    (h : (byteBefore B i).toNat < (byteBefore B j).toNat
      ∨ (byteBefore B i).toNat = (byteBefore B j).toNat ∧ digits (rot B i) ≤ digits (rot B j)) :
    digits (rot B (cyclicPred B.length i)) ≤ digits (rot B (cyclicPred B.length j)) := by
  rcases eq_or_ne B [] with rfl | hB
  · exact le_rfl
  obtain ⟨X, hi, hi'⟩ := rot_pred hB i
  obtain ⟨Y, hj, hj'⟩ := rot_pred hB j
  have hlen : Y.length = X.length := by
    have h := (rot_length B j).trans (rot_length B i).symm
    rw [hi, hj] at h
    simpa using h
  rw [hi', hj', digits_cons, digits_cons]
  rcases h with hlt | ⟨heq, hle⟩
  · exact le_of_lt (List.Lex.rel hlt)
  · rw [heq]
    refine List.cons_le_cons _ (le_of_not_gt fun hlt => hle.not_gt ?_)
    rw [hi, hj, digits_append, digits_append]
    exact append_lt_append_of_lt (by simpa [digits] using hlen) hlt _ _

/-- The key of the rotation order: the rotation, then the start index. -/
def rotKey (B : List Byte) (i : Nat) : List Nat ×ₗ Nat := toLex (digits (rot B i), i)

theorem rotKey_injective (B : List Byte) : Function.Injective (rotKey B) :=
  fun _ _ h => congrArg Prod.snd (toLex.injective h)

theorem rotKey_lt_iff {B : List Byte} {i j : Nat} : rotKey B i < rotKey B j ↔
    digits (rot B i) < digits (rot B j) ∨ digits (rot B i) = digits (rot B j) ∧ i < j := Prod.Lex.toLex_lt_toLex

theorem rotLt_iff {B : List Byte} {i j : Nat} : rotLt B i j = true ↔ rotKey B i < rotKey B j := by
  simp [rotLt, rotKey_lt_iff, lexLt_iff, digits_injective.eq_iff]

theorem rotBefore_of_rotLt {B : List Byte} {i j : Nat} (h : rotLt B i j = true) : RotBefore B i j := by
  rcases (by simpa [rotLt] using h : lexLt (rot B i) (rot B j) = true ∨ rot B i = rot B j ∧ i < j) with hlt | heq
  · exact .inl (lexBefore_of_lexLt hlt)
  · exact .inr heq

/-! The rotation order as a list, and the last column (R132, R133) -/

theorem rotationOrder_pairwise (B : List Byte) : (rotationOrder B).Pairwise (fun i j => rotKey B i < rotKey B j) :=
  insertionSort_range_pairwise (fun i j => by rw [← not_lt, ← rotLt_iff]; simp) (rotKey_injective B) _

@[simp] theorem rotationOrder_length (B : List Byte) : (rotationOrder B).length = B.length := by
  simpa using (rotationOrder_perm B).length_eq

/-- The rotations of SA rise (R132). -/
theorem rotationOrder_digits_pairwise (B : List Byte) :
    (rotationOrder B).Pairwise (fun i j => digits (rot B i) ≤ digits (rot B j)) :=
  (rotationOrder_pairwise B).imp fun h => (rotKey_lt_iff.1 h).elim le_of_lt fun e => le_of_eq e.1

theorem map_pred_range_perm (n : Nat) : ((List.range n).map (cyclicPred n)).Perm (List.range n) := by
  have h : (List.range n).map (cyclicPred n) = (List.range n).rotate (n - 1) := by
    refine List.ext_getElem (by simp) fun k hk _ => ?_
    have hn : 1 ≤ n := by simp at hk; omega
    simp [cyclicPred, List.getElem_rotate, Nat.add_sub_assoc hn]
  exact h ▸ List.rotate_perm _ _

/-- Over all ranks, the indices one before those of SA are again all indices. -/
theorem rotationOrder_pred_perm (B : List Byte) :
    ((rotationOrder B).map (cyclicPred B.length)).Perm (List.range B.length) :=
  ((rotationOrder_perm B).map _).trans (map_pred_range_perm _)

theorem bwtFwd_fst (B : List Byte) : (bwtFwd B).1 = (rotationOrder B).map (byteBefore B) := by
  unfold bwtFwd
  split
  · rename_i h; simp [rotationOrder, h]
  · rfl

theorem bwtFwd_fst_perm (B : List Byte) : (bwtFwd B).1.Perm B := by
  calc (bwtFwd B).1
      = ((rotationOrder B).map (cyclicPred B.length)).map (fun i => B.getD i 0) := by
        rw [bwtFwd_fst, List.map_map]; rfl
    List.Perm _ ((List.range B.length).map (fun i => B.getD i 0)) := (rotationOrder_pred_perm B).map _
    _ = B := map_range_getD B 0

/-- The primary index of a nonempty block is the rank of index 0 (R133). -/
theorem bwtFwd_primary {B : List Byte} (h : B ≠ []) :
    (bwtFwd B).2 < B.length ∧ (rotationOrder B)[(bwtFwd B).2]? = some 0 := by
  have hmem : 0 ∈ rotationOrder B :=
    (rotationOrder_perm B).mem_iff.2 (List.mem_range.2 (List.length_pos_of_ne_nil h))
  rw [bwtFwd, if_neg (mt List.length_eq_zero_iff.1 h)]
  exact ⟨by simpa using List.idxOf_lt_length_of_mem hmem, List.getElem?_idxOf hmem⟩

/-- Settles O48: SA is sorted by a key that no two indices share. -/
theorem bwtSortsTheRotations : Obligations.BwtSortsTheRotations := fun B =>
  ⟨rotationOrder_perm B, (rotationOrder_pairwise B).imp fun h => rotBefore_of_rotLt (rotLt_iff.2 h), bwtFwd_fst B,
    fun h => by simp [h, bwtFwd], bwtFwd_primary, bwtFwd_fst_perm B⟩

/-! LF numbers the columns in the order of their bytes (R134, R135) -/

/-- The key of a column: its byte of L, then its position. -/
def colKey (L : List Byte) (i : Nat) : Nat ×ₗ Nat := toLex ((L.getD i 0).toNat, i)

theorem colKey_injective (L : List Byte) : Function.Injective (colKey L) :=
  fun _ _ h => congrArg Prod.snd (toLex.injective h)

theorem colKey_lt_iff {L : List Byte} {i j : Nat} : colKey L i < colKey L j ↔
    (L.getD i 0).toNat < (L.getD j 0).toNat ∨ (L.getD i 0).toNat = (L.getD j 0).toNat ∧ i < j := Prod.Lex.toLex_lt_toLex

/-- Of the first m columns, those below column i hold a smaller byte, or the same byte before position i. -/
theorem countP_colKey_lt (L : List Byte) (i : Nat) {m : Nat} (hm : m ≤ L.length) :
    (List.range m).countP (fun j => decide (colKey L j < colKey L i))
      = (L.take m).countP (fun x => decide (x.toNat < (L.getD i 0).toNat)) + (L.take (min m i)).count (L.getD i 0) := by
  induction m with
  | zero => simp
  | succ m ih =>
    have htake := take_succ_eq_append_getD hm (0 : Byte)
    rw [List.range_succ, List.countP_append, ih (Nat.le_of_succ_le hm), List.countP_singleton, htake, List.countP_append,
      List.countP_singleton]
    simp only [colKey_lt_iff, decide_eq_true_eq]
    rcases Nat.lt_or_ge m i with hi | hi
    · rw [Nat.min_eq_left hi, Nat.min_eq_left hi.le, htake, List.count_append, List.count_singleton]
      simp only [hi, and_true, beq_iff_eq, ← BitVec.toNat_inj]
      split_ifs <;> omega
    · rw [Nat.min_eq_right hi, Nat.min_eq_right (Nat.le_succ_of_le hi)]
      simp only [Nat.not_lt.2 hi, and_false, or_false]
      omega

/-- LF(i) = C[L[i]] + rank[i] - 1 over the tables of L (R135). -/
def lf (L : List Byte) (i : Nat) : Nat := lfStep L (cumTable L) (rankTable L) i

/-- LF(i) is the number of columns below column i (R134). -/
theorem lf_eq_countP {L : List Byte} {i : Nat} (h : i < L.length) :
    lf L i = (List.range L.length).countP (fun j => decide (colKey L j < colKey L i)) := by
  rw [lf, lfStep, cumTable_getD, rankTable_getD _ _ h, countP_colKey_lt L i le_rfl,
    take_succ_eq_append_getD h 0, List.count_append, List.count_singleton_self, List.take_length, Nat.min_eq_right h.le]
  rfl

/-- The columns sorted by their bytes, and by position where the bytes agree. -/
def columnOrder (L : List Byte) : List Nat := (List.range L.length).insertionSort (fun i j => colKey L i ≤ colKey L j)

theorem columnOrder_perm (L : List Byte) : (columnOrder L).Perm (List.range L.length) := List.perm_insertionSort _ _

theorem columnOrder_pairwise (L : List Byte) : (columnOrder L).Pairwise (fun i j => colKey L i < colKey L j) :=
  insertionSort_range_pairwise (fun _ _ => Iff.rfl) (colKey_injective L) _

@[simp] theorem columnOrder_length (L : List Byte) : (columnOrder L).length = L.length := by
  simpa using (columnOrder_perm L).length_eq

theorem mem_columnOrder {L : List Byte} {i : Nat} : i ∈ columnOrder L ↔ i < L.length :=
  (columnOrder_perm L).mem_iff.trans List.mem_range

/-- LF of the column at place k of the order is k: LF is the inverse of the order (R135). -/
theorem lf_columnOrder {L : List Byte} {k : Nat} (h : k < (columnOrder L).length) : lf L (columnOrder L)[k] = k := by
  rw [lf_eq_countP (mem_columnOrder.1 (List.getElem_mem h)), ← (columnOrder_perm L).countP_eq]
  exact countP_key_lt_getElem (columnOrder_pairwise L) h

theorem columnOrder_map_lf (L : List Byte) : (columnOrder L).map (lf L) = List.range L.length :=
  List.ext_getElem (by simp) fun k hk _ => by
    rw [List.getElem_map, List.getElem_range, lf_columnOrder]

theorem lf_lt_length {L : List Byte} {i : Nat} (h : i < L.length) : lf L i < L.length := by
  obtain ⟨k, hk, rfl⟩ := List.getElem_of_mem (mem_columnOrder.2 h)
  rw [lf_columnOrder]
  simpa using hk

/-- Settles O49: taken in the order of their bytes, the columns have LF 0, 1, …, n-1. -/
theorem lfIsAPermutation : Obligations.LfIsAPermutation := fun L _ =>
  ⟨((columnOrder_perm L).symm.map _).trans (.of_eq (columnOrder_map_lf L)), fun hp => bwtInv_of_index (.inr hp)⟩

/-! The walk on a last column goes back through the block (R134, R135) -/

section
variable {B : List Byte}

/-- Column i of the last column holds the byte before SA[i] (R132). -/
theorem bwtFwd_getD {i : Nat} (h : i < B.length) :
    (bwtFwd B).1.getD i 0 = byteBefore B ((rotationOrder B).getD i 0) := by
  simp [bwtFwd_fst, h]

/-- The rotation one byte before that of SA[i], as numbers. -/
def earlierRot (B : List Byte) (i : Nat) : List Nat :=
  digits (rot B (cyclicPred B.length ((rotationOrder B).getD i 0)))

/-- Along the columns in the order of their bytes the rotations one byte earlier rise: each is its column's byte, then a
rotation of the sorted list without its last byte. -/
theorem columnOrder_earlierRot_pairwise : ((columnOrder (bwtFwd B).1).map (earlierRot B)).Pairwise (· ≤ ·) := by
  rw [List.pairwise_map]
  refine (columnOrder_pairwise _).imp_of_mem fun {i j} hi hj hlt => digits_rot_pred_le ?_
  rw [mem_columnOrder, bwtFwd_length] at hi hj
  rw [colKey_lt_iff, bwtFwd_getD hi, bwtFwd_getD hj] at hlt
  refine hlt.imp_right (And.imp_right fun hij => ?_)
  rw [← rotationOrder_length] at hi hj
  rw [List.getD_eq_getElem _ _ hi, List.getD_eq_getElem _ _ hj]
  exact List.pairwise_iff_getElem.1 (rotationOrder_digits_pairwise B) i j hi hj hij

/-- So they are the rotations in the order of SA: both lists rise and hold the same rotations. -/
theorem columnOrder_map_earlierRot :
    (columnOrder (bwtFwd B).1).map (earlierRot B) = (rotationOrder B).map (fun i => digits (rot B i)) := by
  have hsa := map_range_getD (rotationOrder B) 0
  rw [rotationOrder_length] at hsa
  have hearlier : (List.range B.length).map (earlierRot B)
      = ((rotationOrder B).map (cyclicPred B.length)).map (fun i => digits (rot B i)) := by
    conv_rhs => rw [← hsa]
    rw [List.map_map, List.map_map]
    rfl
  have hcols := (columnOrder_perm (bwtFwd B).1).map (earlierRot B)
  rw [bwtFwd_length, hearlier] at hcols
  have hall := (rotationOrder_pred_perm B).trans (rotationOrder_perm B).symm
  exact List.Perm.eq_of_pairwise' columnOrder_earlierRot_pairwise
    (List.pairwise_map.2 (rotationOrder_digits_pairwise B)) (hcols.trans (hall.map _))

/-- A step of LF goes from a rotation to the one that starts a byte earlier (R135). Two indices with equal rotations are not
told apart, so the claim is about the rotations and not about their start indices. -/
theorem rot_lf {i : Nat} (h : i < B.length) :
    rot B ((rotationOrder B).getD (lf (bwtFwd B).1 i) 0)
      = rot B (cyclicPred B.length ((rotationOrder B).getD i 0)) := by
  obtain ⟨k, hk, rfl⟩ := List.getElem_of_mem (mem_columnOrder (L := (bwtFwd B).1).2 (by simpa using h))
  have hk' : k < (rotationOrder B).length := by simpa using hk
  rw [lf_columnOrder, List.getD_eq_getElem _ _ hk']
  have heq := List.getElem_of_eq (columnOrder_map_earlierRot (B := B)) (i := k) (by simpa using hk)
  rw [List.getElem_map, List.getElem_map] at heq
  exact (digits_injective heq).symm

/-- With the last n - m bytes of the block written, and at a column whose rotation is that of m, the walk writes the rest. -/
theorem lfWalk_bwtFwd {m idx : Nat} (hm : m ≤ B.length) (hidx : idx < B.length)
    (hrot : rot B ((rotationOrder B).getD idx 0) = rot B m) :
    (lfWalk (bwtFwd B).1 (cumTable (bwtFwd B).1) (rankTable (bwtFwd B).1) m idx (B.drop m)).1 = B := by
  induction m generalizing idx with
  | zero => rfl
  | succ m ih =>
    have hpred : cyclicPred B.length (m + 1) = m := by
      rw [cyclicPred, Nat.add_right_comm, Nat.add_sub_cancel, Nat.add_mod_right, Nat.mod_eq_of_lt hm]
    obtain ⟨hbyte, hback⟩ := rot_pred_congr hrot
    have hlast : byteBefore B (m + 1) = B[m] := by rw [byteBefore, hpred, List.getD_eq_getElem _ _ hm]
    rw [hpred] at hback
    rw [lfWalk, ← lf, bwtFwd_getD hidx, hbyte, hlast, List.getElem_cons_drop]
    exact ih (Nat.le_of_succ_le hm) (by simpa using lf_lt_length (L := (bwtFwd B).1) (by simpa using hidx))
      ((rot_lf hidx).trans hback)

end

/-- Settles O50: the walk starts at the rank of index 0, whose rotation is the block, and writes the block from its end. -/
theorem bwtInverseUndoesTheForwardTransform : Obligations.BwtInverseUndoesTheForwardTransform := by
  intro B
  rcases eq_or_ne B [] with rfl | hB
  · rfl
  obtain ⟨hp, hsa⟩ := bwtFwd_primary hB
  have hwalk := lfWalk_bwtFwd le_rfl hp (by rw [List.getD_eq_getElem?_getD, hsa]; simp)
  rw [List.drop_length] at hwalk
  rw [bwtInv, bwtFwd_length, if_neg (mt List.length_eq_zero_iff.1 hB), if_pos hp, hwalk]

end Sys2Proof.Machine
end

section
/-! PROOFS. The MTF coders undo each other and put index 0 on a repeated byte (R154). Both passes keep the front list a
permutation of the byte values; on such a list the index of a byte and the byte at an index are inverse, so the two passes make
the same moves. -/

namespace Sys2Proof.Machine

/-! One step of the passes -/

@[simp] theorem mtfEncFrom_cons_fst (F : List Byte) (b : Byte) (X : List Byte) : (mtfEncFrom F (b :: X)).1
    = BitVec.ofNat 8 (F.idxOf b) :: (mtfEncFrom (mtfMove F (F.idxOf b)) X).1 := rfl

@[simp] theorem mtfDecFrom_cons_fst (F : List Byte) (y : Byte) (Y : List Byte) : (mtfDecFrom F (y :: Y)).1
    = F.getD y.toNat 0 :: (mtfDecFrom (mtfMove F y.toNat) Y).1 := rfl

/-- Byte v stands at place v of the first front list (R150). -/
theorem byteValues_getD_toNat (v : Byte) : byteValues.getD v.toNat 0 = v := by
  simp [byteValues, v.isLt]

/-! The index of a byte in a front list -/

section
variable {F : List Byte} (hF : F.Perm byteValues)
include hF

theorem mem_front (b : Byte) : b ∈ F := hF.mem_iff.2 (mem_byteValues b)

theorem front_length : F.length = 256 := hF.length_eq.trans byteValues_length

theorem front_idxOf_lt (b : Byte) : F.idxOf b < F.length := List.idxOf_lt_length_iff.2 (mem_front hF b)

/-- An index fits in a byte. -/
theorem toNat_ofNat_idxOf (b : Byte) : (BitVec.ofNat 8 (F.idxOf b)).toNat = F.idxOf b :=
  Nat.mod_eq_of_lt ((front_idxOf_lt hF b).trans_eq (front_length hF))

theorem front_getD_idxOf (b : Byte) : F.getD (F.idxOf b) 0 = b := by
  rw [List.getD_eq_getElem _ _ (front_idxOf_lt hF b), List.getElem_idxOf]

theorem front_idxOf_getD (y : Byte) : F.idxOf (F.getD y.toNat 0) = y.toNat := by
  have hy : y.toNat < F.length := front_length hF ▸ y.isLt
  rw [List.getD_eq_getElem _ _ hy, (hF.nodup_iff.2 byteValues_nodup).idxOf_getElem]

/-- The encoder writes y for the byte that the decoder writes for y. -/
theorem ofNat_idxOf_eq_iff {b y : Byte} : BitVec.ofNat 8 (F.idxOf b) = y ↔ b = F.getD y.toNat 0 := by
  constructor
  · rintro rfl
    rw [toNat_ofNat_idxOf hF, front_getD_idxOf hF]
  · rintro rfl
    rw [front_idxOf_getD hF, BitVec.ofNat_toNat, BitVec.setWidth_eq]

theorem mtfMove_idxOf_perm (b : Byte) : (mtfMove F (F.idxOf b)).Perm byteValues :=
  (mtfMove_perm F _ (front_idxOf_lt hF b)).trans hF

theorem mtfMove_toNat_perm (y : Byte) : (mtfMove F y.toNat).Perm byteValues :=
  (mtfMove_perm F _ (front_length hF ▸ y.isLt)).trans hF

end

/-! The passes from a front list -/

theorem mtfDecFrom_mtfEncFrom {F : List Byte} (hF : F.Perm byteValues) (X : List Byte) :
    (mtfDecFrom F (mtfEncFrom F X).1).1 = X := by
  induction X generalizing F with
  | nil => rfl
  | cons b X ih =>
    rw [mtfEncFrom_cons_fst, mtfDecFrom_cons_fst, toNat_ofNat_idxOf hF, front_getD_idxOf hF,
      ih (mtfMove_idxOf_perm hF b)]

theorem mtfEncFrom_mtfDecFrom {F : List Byte} (hF : F.Perm byteValues) (Y : List Byte) :
    (mtfEncFrom F (mtfDecFrom F Y).1).1 = Y := by
  induction Y generalizing F with
  | nil => rfl
  | cons y Y ih =>
    rw [mtfDecFrom_cons_fst, mtfEncFrom_cons_fst, (ofNat_idxOf_eq_iff hF).2 rfl, front_idxOf_getD hF,
      ih (mtfMove_toNat_perm hF y)]

/-- An index is 0 exactly where its byte is the one before it, the head of the front list standing before the first byte. -/
theorem mtfEncFrom_getD_eq_zero_iff {F : List Byte} (hF : F.Perm byteValues) {X : List Byte} {t : Nat}
    (ht : t < X.length) :
    (mtfEncFrom F X).1.getD t 0 = 0 ↔ X.getD t 0 = if t = 0 then F.getD 0 0 else X.getD (t - 1) 0 := by
  induction X generalizing F t with
  | nil => exact absurd ht (Nat.not_lt_zero t)
  | cons b X ih =>
    cases t with
    | zero => exact ofNat_idxOf_eq_iff hF
    | succ t =>
      have hhead : (mtfMove F (F.idxOf b)).getD 0 0 = b := front_getD_idxOf hF b
      have hrest := ih (mtfMove_idxOf_perm hF b) (Nat.lt_of_succ_lt_succ ht)
      rw [hhead] at hrest
      cases t <;> exact hrest

/-- The byte at the head of the front list has index 0, and its move leaves the list as it is. -/
theorem mtfEncFrom_replicate_head (v : Byte) (F : List Byte) (k : Nat) :
    (mtfEncFrom (v :: F) (List.replicate k v)).1 = List.replicate k 0 := by
  induction k with
  | zero => rfl
  | succ k ih =>
    rw [List.replicate_succ, mtfEncFrom_cons_fst, List.idxOf_cons_self]
    exact congrArg (List.cons 0) ih

/-! The passes from the first front list -/

/-- The first byte moves to the head of the front list, where its repetitions find it. -/
theorem mtfEnc_replicate_succ (v : Byte) (k : Nat) :
    mtfEnc (List.replicate (k + 1) v) = v :: List.replicate k 0 := by
  have hindex : BitVec.ofNat 8 (byteValues.idxOf v) = v :=
    (ofNat_idxOf_eq_iff (.refl _)).2 (byteValues_getD_toNat v).symm
  rw [mtfEnc, List.replicate_succ, mtfEncFrom_cons_fst, hindex, mtfMove, front_getD_idxOf (.refl _),
    mtfEncFrom_replicate_head]

theorem mtfEnc_replicate_zero (k : Nat) : mtfEnc (List.replicate k 0) = List.replicate k 0 := by
  cases k with
  | zero => rfl
  | succ k => exact mtfEnc_replicate_succ 0 k

/-- Settles O51: both passes start from the byte values in order, whose head is 0. -/
theorem mtfCodersUndoEachOther : Obligations.MtfCodersUndoEachOther := by
  refine ⟨fun X => ⟨mtfDecFrom_mtfEncFrom (.refl _) X, mtfEncFrom_mtfDecFrom (.refl _) X, mtfEnc_length X⟩,
    mtfEnc_replicate_succ, mtfEnc_replicate_zero, fun X t ht => ?_⟩
  have h := mtfEncFrom_getD_eq_zero_iff (.refl byteValues) ht
  rwa [show byteValues.getD 0 0 = 0 from byteValues_getD_toNat 0] at h

end Sys2Proof.Machine
end

section
/-! PROOFS. The RLE encoder and decoder (R165–R170). The encoder cuts its input into stretches of one value, each at most the
cap long and shorter only where the value changes; `rleEnc_induction` is the induction over that cut, and each law of the
encoder is one case of it. -/

namespace Sys2Proof.Machine

/-! What the inner loop of R165 counts -/

theorem runLength_le (v : Byte) (k : Nat) (X : List Byte) : runLength v k X ≤ k := by
  fun_induction runLength v k X <;> omega

/-- The counted values stand at the front. -/
theorem replicate_runLength_append_drop (v : Byte) (k : Nat) (X : List Byte) :
    List.replicate (runLength v k X) v ++ X.drop (runLength v k X) = X := by
  fun_induction runLength v k X with
  | case1 | case2 | case4 => rfl
  | case3 k X ih => rw [List.replicate_succ, List.drop_succ_cons, List.cons_append, ih]

/-- The count stops at its bound, or where another value or the end comes. -/
theorem runLength_stops (v : Byte) (k : Nat) (X : List Byte) :
    runLength v k X = k ∨ (X.drop (runLength v k X)).head? ≠ some v := by
  fun_induction runLength v k X with
  | case1 => exact .inl rfl
  | case2 => exact .inr nofun
  | case3 k X ih => exact ih.imp_left (congrArg (· + 1))
  | case4 k x X hx => exact .inr fun h => hx (Option.some.inj h)

theorem runLength_replicate_append {v : Byte} {k r : Nat} {B : List Byte} (hr : r ≤ k)
    (hstop : r = k ∨ B.head? ≠ some v) : runLength v k (List.replicate r v ++ B) = r := by
  induction r generalizing k with
  | zero =>
    rw [List.replicate_zero, List.nil_append]
    match k, B, hstop with
    | 0, _, _ => rfl
    | _ + 1, [], _ => rfl
    | _ + 1, b :: B, .inr hb => exact if_neg fun h => hb (congrArg some h)
  | succ r ih =>
    obtain ⟨k, rfl⟩ : ∃ k', k = k' + 1 := ⟨k - 1, by omega⟩
    rw [List.replicate_succ, List.cons_append, runLength, if_pos rfl,
      ih (Nat.le_of_succ_le_succ hr) (hstop.imp_left Nat.succ.inj)]

/-! One pair of the encoder -/

@[simp] theorem rleEnc_nil (m : Nat) : rleEnc [] m = [] := rfl

theorem rleEnc_cons (v : Byte) (X : List Byte) (m : Nat) :
    rleEnc (v :: X) m = (v, 1 + runLength v (m - 1) X) :: rleEnc (X.drop (runLength v (m - 1) X)) m :=
  rleEncFrom_run m v 1 X

/-- The first pair has the first value. -/
theorem rleEnc_head?_fst (X : List Byte) (m : Nat) : (rleEnc X m).head?.map Prod.fst = X.head? := by
  cases X with
  | nil => rfl
  | cons v X => rw [rleEnc_cons]; rfl

theorem rleEnc_eq_nil_iff {X : List Byte} {m : Nat} : rleEnc X m = [] ↔ X = [] := by
  rw [← List.head?_eq_none_iff, ← List.head?_eq_none_iff, ← rleEnc_head?_fst X m, Option.map_eq_none_iff]

/-- A stretch that fills the cap, or that another value or the end follows, is one pair (R165). -/
theorem rleEnc_replicate_append {m r : Nat} {v : Byte} {B : List Byte} (h1 : 1 ≤ r) (hr : r ≤ m)
    (hstop : r = m ∨ B.head? ≠ some v) : rleEnc (List.replicate r v ++ B) m = (v, r) :: rleEnc B m := by
  obtain ⟨r, rfl⟩ := Nat.exists_eq_add_of_le' h1
  have hrun : runLength v (m - 1) (List.replicate r v ++ B) = r :=
    runLength_replicate_append (by omega) (hstop.imp_left (by omega))
  have hdrop : (List.replicate r v ++ B).drop r = B := List.drop_left' List.length_replicate
  rw [List.replicate_succ, List.cons_append, rleEnc_cons, hrun, hdrop, Nat.add_comm]

/-- Induction over the stretches of which the encoder makes one pair each. -/
theorem rleEnc_induction {m : Nat} (hm : 1 ≤ m) {P : List Byte → Prop} (nil : P [])
    (stretch : ∀ v r B, 1 ≤ r → r ≤ m → (r = m ∨ B.head? ≠ some v) → P B → P (List.replicate r v ++ B))
    (X : List Byte) : P X := by
  induction hn : X.length using Nat.strong_induction_on generalizing X with
  | _ n ih =>
    cases X with
    | nil => exact nil
    | cons v X =>
      have hle := runLength_le v (m - 1) X
      have hrest : P (X.drop (runLength v (m - 1) X)) :=
        ih _ (by rw [← hn, List.length_drop, List.length_cons]; omega) _ rfl
      have h := stretch v (runLength v (m - 1) X + 1) _ (by omega) (by omega)
        ((runLength_stops v (m - 1) X).imp_left (by omega)) hrest
      rwa [List.replicate_succ, List.cons_append, replicate_runLength_append_drop] at h

/-! The pairs of the encoder -/

section
variable {m : Nat} (hm : 1 ≤ m) (X : List Byte)
include hm

/-- Every run is between 1 and the cap (R167). -/
theorem rleEnc_run_bounds : ∀ p ∈ rleEnc X m, 1 ≤ p.2 ∧ p.2 ≤ m := by
  induction X using rleEnc_induction hm with
  | nil => nofun
  | stretch v r B h1 hr hstop ih =>
    rw [rleEnc_replicate_append h1 hr hstop]
    exact List.forall_mem_cons.2 ⟨⟨h1, hr⟩, ih⟩

/-- The runs add up to the length (R170). -/
theorem rleEnc_sum_runs : ((rleEnc X m).map (fun p => p.2)).sum = X.length := by
  induction X using rleEnc_induction hm with
  | nil => rfl
  | stretch v r B h1 hr hstop ih => simp [rleEnc_replicate_append h1 hr hstop, ih]

/-- Of two consecutive pairs of one value the first has the cap (R167). -/
theorem rleEnc_isChain : (rleEnc X m).IsChain (fun p q => p.1 = q.1 → p.2 = m) := by
  induction X using rleEnc_induction hm with
  | nil => exact .nil
  | stretch v r B h1 hr hstop ih =>
    rw [rleEnc_replicate_append h1 hr hstop, List.isChain_cons]
    refine ⟨fun q hq (hv : v = q.1) => hstop.resolve_right (not_not.2 ?_), ih⟩
    rw [← rleEnc_head?_fst B m, Option.mem_def.1 hq, hv]
    rfl

/-- Where the value changes, the encoder's pairs divide (R167). -/
theorem rleEnc_append (Y : List Byte) (hXY : ∀ v, X.getLast? = some v → Y.head? ≠ some v) :
    rleEnc (X ++ Y) m = rleEnc X m ++ rleEnc Y m := by
  induction X using rleEnc_induction hm with
  | nil => rfl
  | stretch v r B h1 hr hstop ih =>
    have hB : rleEnc (B ++ Y) m = rleEnc B m ++ rleEnc Y m :=
      ih fun w hw => hXY w (by rw [List.getLast?_append, hw]; rfl)
    have hstop' : r = m ∨ (B ++ Y).head? ≠ some v := by
      cases B with
      | nil =>
        obtain ⟨r, rfl⟩ := Nat.exists_eq_add_of_le' h1
        exact .inr (hXY v (by simp [List.getLast?_replicate]))
      | cons b B => exact hstop
    rw [List.append_assoc, rleEnc_replicate_append h1 hr hstop', rleEnc_replicate_append h1 hr hstop, hB,
      List.cons_append]

/-- Whole caps of one value are as many full pairs, whatever follows (R167). -/
theorem rleEnc_full_runs_append (v : Byte) (q : Nat) :
    rleEnc (List.replicate (m * q) v ++ X) m = List.replicate q (v, m) ++ rleEnc X m := by
  induction q with
  | zero => rfl
  | succ q ih =>
    rw [Nat.mul_succ, Nat.add_comm, List.replicate_add, List.append_assoc,
      rleEnc_replicate_append hm le_rfl (.inl rfl), ih, List.replicate_succ, List.cons_append]

/-- A stretch that ends where the value changes is full pairs and a rest (R167). -/
theorem rleEnc_stretch_append {v : Byte} (r : Nat) (hv : X.head? ≠ some v) :
    rleEnc (List.replicate r v ++ X) m
      = List.replicate (r / m) (v, m) ++ (if r % m = 0 then [] else [(v, r % m)]) ++ rleEnc X m := by
  have hrest : rleEnc (List.replicate (r % m) v ++ X) m
      = (if r % m = 0 then [] else [(v, r % m)]) ++ rleEnc X m := by
    split
    case isTrue h0 => rw [h0]; rfl
    case isFalse h0 =>
      exact rleEnc_replicate_append (Nat.pos_of_ne_zero h0) (Nat.mod_lt r hm).le (.inr hv)
  calc rleEnc (List.replicate r v ++ X) m
      = rleEnc (List.replicate (m * (r / m)) v ++ (List.replicate (r % m) v ++ X)) m := by
        rw [← List.append_assoc, ← List.replicate_add, Nat.div_add_mod]
    _ = _ := by rw [rleEnc_full_runs_append hm, hrest, List.append_assoc]

end

/-! The decoder on serialised pairs -/

/-- Runs of 1 to 255 pass the search for a zero run (R169). -/
theorem firstZeroRun_ser {ps : List RlePair} (h : ∀ p ∈ ps, 1 ≤ p.2 ∧ p.2 ≤ 255) (off : Nat) :
    firstZeroRun off (ser ps) = none := by
  induction ps generalizing off with
  | nil => rfl
  | cons p ps ih =>
    obtain ⟨⟨h1, h255⟩, hps⟩ := List.forall_mem_cons.1 h
    have hbyte : BitVec.ofNat 8 p.2 ≠ 0 := by
      rw [ne_eq, ← BitVec.toNat_inj, BitVec.toNat_ofNat, Nat.mod_eq_of_lt (by omega)]
      exact Nat.ne_of_gt h1
    rw [ser, firstZeroRun, if_neg hbyte, ih hps]

/-- Serialised pairs with runs of 1 to 255 decode to their expansion (R169). -/
theorem rleDec_ser {ps : List RlePair} (h : ∀ p ∈ ps, 1 ≤ p.2 ∧ p.2 ≤ 255) :
    rleDec (ser ps) = .ok (expandPairs (ser ps)) := by
  have heven : ¬ (ser ps).length % 2 = 1 := by rw [ser_length]; omega
  rw [rleDec, if_neg heven, firstZeroRun_ser h]

/-- The expansion of the encoder's pairs is its input (R170). -/
theorem expandPairs_ser_rleEnc {m : Nat} (hm : 1 ≤ m) (h255 : m ≤ 255) (X : List Byte) :
    expandPairs (ser (rleEnc X m)) = X := by
  induction X using rleEnc_induction hm with
  | nil => rfl
  | stretch v r B h1 hr hstop ih =>
    rw [rleEnc_replicate_append h1 hr hstop, ser, expandPairs, ih, BitVec.toNat_ofNat, Nat.mod_eq_of_lt (by omega)]

/-- The decoder gives back what was encoded (R170). -/
theorem rleDec_ser_rleEnc {m : Nat} (hm : 1 ≤ m) (h255 : m ≤ 255) (X : List Byte) :
    rleDec (ser (rleEnc X m)) = .ok X := by
  have hruns : ∀ p ∈ rleEnc X m, 1 ≤ p.2 ∧ p.2 ≤ 255 := fun p hp =>
    (rleEnc_run_bounds hm X p hp).imp_right fun h => h.trans h255
  rw [rleDec_ser hruns, expandPairs_ser_rleEnc hm h255]

/-- The payload is empty exactly for the empty input (R168). -/
theorem ser_rleEnc_eq_nil_iff {X : List Byte} {m : Nat} : ser (rleEnc X m) = [] ↔ X = [] := by
  rw [← List.length_eq_zero_iff, ser_length, mul_eq_zero_iff_left two_ne_zero, List.length_eq_zero_iff,
    rleEnc_eq_nil_iff]

/-- Settles O52: the FSM in a run counts what the inner loop of the greedy encoder counts. -/
theorem rleFsmIsTheGreedyEncoder : Obligations.RleFsmIsTheGreedyEncoder := rleEnc_eq_rleGreedy

/-- Settles O53: the laws of the encoder by induction over its stretches, and the decoder on runs of 1 to 255. -/
theorem rleDecodesWhatItEncodes : Obligations.RleDecodesWhatItEncodes := by
  intro X m hm h255
  refine ⟨rleDec_ser_rleEnc hm h255 X, rleEnc_run_bounds hm X, rleEnc_sum_runs hm X, ser_length _,
    ser_rleEnc_eq_nil_iff, fun k p q hp hq => ?_, fun A B v r hX hr hA hB => ?_⟩
  · obtain ⟨_, rfl⟩ := List.getElem?_eq_some_iff.1 hp
    obtain ⟨hk, rfl⟩ := List.getElem?_eq_some_iff.1 hq
    exact List.isChain_iff_getElem.1 (rleEnc_isChain hm X) k hk
  · have hchange : ∀ w, A.getLast? = some w → (List.replicate r v ++ B).head? ≠ some w := by
      obtain ⟨r, rfl⟩ := Nat.exists_eq_add_of_le' hr
      intro w hw hv
      exact hA (hw.trans hv.symm)
    rw [hX, List.append_assoc, rleEnc_append hm A _ hchange, rleEnc_stretch_append hm B r hB]
    simp only [List.append_assoc]

end Sys2Proof.Machine
end

section
/-! PROOFS. The block container framer (R181–R187): the three outcomes of block_enc, the checks of block_dec on bytes that
begin with a header, and the round trip of a block. A candidate that validates decodes to its block by what validation
means, so the round trip asks only when an emitted candidate validates: always with self-validation on, and with fault
injection off because the unit coders undo each other. -/

namespace Sys2Proof.Machine

open Sys2Proof.Safety

/-! The candidate (R181, R182) -/

theorem injectMtf_eq (dbg : Word) (M : List Byte) :
    injectMtf dbg M = if dbgInjMtf dbg then M.modifyHead (fun x => x ^^^ 0x01#8) else M := by
  cases M <;> simp [injectMtf]

theorem injectRle_eq (dbg : Word) (ps : List RlePair) :
    injectRle dbg ps = if dbgInjRle dbg then ps.modifyHead (fun q => (q.1 ^^^ 0x01#8, q.2)) else ps := by
  cases ps <;> simp [injectRle]

theorem candidatePayload_of_injectionOff {dbg : Word} (h : InjectionOff dbg) (L : List Byte) (m : Nat) :
    candidatePayload L m dbg = ser (rleEnc (mtfEnc L) m) := by
  obtain ⟨hm, hr⟩ := h
  rw [candidatePayload, candidateIndices, injectMtf_eq, injectRle_eq, hm, hr]
  rfl

theorem candidatePayload_length_even (L : List Byte) (m : Nat) (dbg : Word) :
    (candidatePayload L m dbg).length % 2 = 0 := by
  rw [candidatePayload, ser_length, Nat.mul_mod_right]

theorem mtfDec_mtfEnc (X : List Byte) : mtfDec (mtfEnc X) = X := mtfDecFrom_mtfEncFrom (.refl _) X

theorem validates_iff {payload Blk : List Byte} {p : Nat} :
    validates payload p Blk = true ↔ ∃ Y, rleDec payload = .ok Y ∧ bwtInv (mtfDec Y) p = some Blk := by
  unfold validates
  split
  case h_1 e he => simp [he]
  case h_2 Y hY => simp [hY]

/-- Without fault injection every candidate validates: the coders undo each other (R135, R154, R170, R186). -/
theorem validates_of_injectionOff {dbg : Word} (h : InjectionOff dbg) {m : Nat} (hm : 1 ≤ m) (h255 : m ≤ 255)
    (Blk : List Byte) : validates (candidatePayload (bwtFwd Blk).1 m dbg) (bwtFwd Blk).2 Blk = true := by
  rw [candidatePayload_of_injectionOff h, validates_iff]
  exact ⟨_, rleDec_ser_rleEnc hm h255 _, by rw [mtfDec_mtfEnc, bwtInverseUndoesTheForwardTransform Blk]⟩

/-! The outcomes of block_enc (R183, R185) -/

/-- The mode decision of R183: the candidate is shorter than the block and, with self-validation on, validates. -/
def CandidateAccepted (Blk : List Byte) (m : Nat) (sv : Bool) (dbg : Word) : Prop :=
  (candidatePayload (bwtFwd Blk).1 m dbg).length < Blk.length
    ∧ (sv = true → validates (candidatePayload (bwtFwd Blk).1 m dbg) (bwtFwd Blk).2 Blk = true)

section
variable {Blk : List Byte} {m : Nat} {sv : Bool} {dbg : Word}

/-- An accepted candidate is framed XFORM. -/
theorem blockEnc_of_accepted (h : CandidateAccepted Blk m sv dbg) :
    blockEnc Blk m sv dbg = encodeXform Blk (candidatePayload (bwtFwd Blk).1 m dbg) (bwtFwd Blk).2 := by
  obtain ⟨hsize, hvalid⟩ := h
  rw [blockEnc, if_neg (Nat.not_le.2 hsize)]
  cases sv with
  | false => rfl
  | true => exact if_pos (hvalid rfl)

/-- Any other block is framed RAW; the mismatch counts the rejections that are not by the size check (R184). -/
theorem blockEnc_of_rejected (h : ¬ CandidateAccepted Blk m sv dbg) :
    blockEnc Blk m sv dbg
      = encodeRaw Blk (if (candidatePayload (bwtFwd Blk).1 m dbg).length < Blk.length then 1 else 0) := by
  by_cases hsize : (candidatePayload (bwtFwd Blk).1 m dbg).length < Blk.length
  · obtain ⟨hsv, hbad⟩ := Classical.not_imp.1 fun hv => h ⟨hsize, hv⟩
    rw [blockEnc, if_neg (Nat.not_le.2 hsize), if_pos hsv, if_neg hbad, if_pos hsize]
  · rw [blockEnc, if_pos (Nat.not_lt.1 hsize), if_neg hsize]

end

/-! What a decode that succeeds says of its input (R134, R169) -/

theorem rleDec_eq_ok {X Y : List Byte} (h : rleDec X = .ok Y) :
    X.length % 2 ≠ 1 ∧ firstZeroRun 0 X = none ∧ Y = expandPairs X := by
  unfold rleDec at h
  split_ifs at h with hodd
  split at h
  case h_1 => cases h
  case h_2 hz => cases h; exact ⟨hodd, hz, rfl⟩

theorem bwtInv_eq_some {L B : List Byte} {p : Nat} (h : bwtInv L p = some B) :
    (L.length = 0 ∨ p < L.length) ∧ B.length = L.length := by
  have hp : L.length = 0 ∨ p < L.length := by
    by_contra hbad
    rw [bwtInv_of_badIndex (by omega) (by omega)] at h
    cases h
  obtain ⟨B', hB', hlen⟩ := bwtInv_of_index hp
  cases h.symm.trans hB'
  exact ⟨hp, hlen⟩

/-! block_dec of bytes that begin with a header (R84, R187) -/

theorem rdBe32_header_fst (h0 h1 : Word) (rest : List Byte) : rdBe32 (be32 h0 ++ be32 h1 ++ rest) 0 = h0.toNat := by
  rw [List.append_assoc, rdBe32_be32_append]

theorem rdBe32_header_snd (h0 h1 : Word) (rest : List Byte) : rdBe32 (be32 h0 ++ be32 h1 ++ rest) 4 = h1.toNat := by
  rw [List.append_assoc]
  exact (rdBe32_append (be32 h0) _ 0).trans (rdBe32_be32_append h1 rest)

theorem drop_header (h0 h1 : Word) (rest : List Byte) : (be32 h0 ++ be32 h1 ++ rest).drop 8 = rest :=
  List.drop_left' rfl

theorem header_length (h0 h1 : Word) (rest : List Byte) :
    (be32 h0 ++ be32 h1 ++ rest).length = rest.length + 8 := by
  simp only [List.length_append, be32_length]; omega

theorem blockDec_of_short {maxBlock : Nat} {S : List Byte} (h : S.length < 8) :
    blockDec maxBlock S 0 = .error .truncatedContainer :=
  if_pos h

/-- Past the header check, the checks of R187 are about the two header fields and the bytes after them. -/
theorem blockDec_header (maxBlock : Nat) (h0 h1 : Word) (rest : List Byte) :
    blockDec maxBlock (be32 h0 ++ be32 h1 ++ rest) 0 =
      if h0.toNat = sentinel then
        if rest.length < h1.toNat then .error .truncatedContainer
        else .ok (rest.take h1.toNat, 8 + h1.toNat,
          { xform := false, rawLen := h1.toNat, payloadLen := h1.toNat, header0 := h0.toNat })
      else if h1.toNat % 2 = 1 then .error .corruptPayload
      else if rest.length < h1.toNat then .error .truncatedContainer
      else if (firstZeroRun 0 (rest.take h1.toNat)).isSome then .error .corruptPayload
      else if maxBlock < sumRuns (rest.take h1.toNat) then .error .blockTooLarge
      else if 0 < sumRuns (rest.take h1.toNat) ∧ sumRuns (rest.take h1.toNat) ≤ h0.toNat then .error .corruptPrimaryIndex
      else .ok ((bwtInv (mtfDec (expandPairs (rest.take h1.toNat))) h0.toNat).getD [], 8 + h1.toNat,
        { xform := true, rawLen := sumRuns (rest.take h1.toNat), payloadLen := h1.toNat, header0 := h0.toNat }) := by
  have hheader : ¬ rest.length + 8 < 8 := by omega
  simp only [blockDec, Nat.sub_zero, Nat.zero_add, rdBe32_header_fst, rdBe32_header_snd, drop_header, header_length,
    Nat.add_sub_cancel, if_neg hheader]

section
variable {maxBlock : Nat} {h0 h1 : Word} {rest : List Byte}

/-- A RAW frame is the bytes its header counts, whatever they are. -/
theorem blockDec_raw (hraw : h0.toNat = sentinel) (hlen : h1.toNat ≤ rest.length) :
    blockDec maxBlock (be32 h0 ++ be32 h1 ++ rest) 0 = .ok (rest.take h1.toNat, 8 + h1.toNat,
      { xform := false, rawLen := h1.toNat, payloadLen := h1.toNat, header0 := h0.toNat }) := by
  rw [blockDec_header, if_pos hraw, if_neg (Nat.not_lt.2 hlen)]

/-- A header whose payload is cut short, RAW or of even length, is refused as truncated. -/
theorem blockDec_cut_payload (hh : h0.toNat = sentinel ∨ h1.toNat % 2 = 0) (hlen : rest.length < h1.toNat) :
    blockDec maxBlock (be32 h0 ++ be32 h1 ++ rest) 0 = .error .truncatedContainer := by
  rw [blockDec_header]
  by_cases hraw : h0.toNat = sentinel
  · rw [if_pos hraw, if_pos hlen]
  · have heven : ¬ h1.toNat % 2 = 1 := by have := hh.resolve_left hraw; omega
    rw [if_neg hraw, if_neg heven, if_pos hlen]

/-- A payload that decodes to a block of at most MAX_BLOCK bytes passes the checks of an XFORM frame. -/
theorem blockDec_xform {Blk : List Byte} (hx : h0.toNat ≠ sentinel) (hlen : h1.toNat ≤ rest.length)
    (hv : validates (rest.take h1.toNat) h0.toNat Blk = true) (hM : Blk.length ≤ maxBlock) :
    blockDec maxBlock (be32 h0 ++ be32 h1 ++ rest) 0 = .ok (Blk, 8 + h1.toNat,
      { xform := true, rawLen := Blk.length, payloadLen := h1.toNat, header0 := h0.toNat }) := by
  obtain ⟨Y, hY, hblk⟩ := validates_iff.1 hv
  obtain ⟨heven, hzero, rfl⟩ := rleDec_eq_ok hY
  obtain ⟨hidx, hn⟩ := bwtInv_eq_some hblk
  rw [mtfDec_length] at hidx hn
  rw [List.length_take_of_le hlen] at heven
  have hzero' : ¬ (firstZeroRun 0 (rest.take h1.toNat)).isSome = true := by rw [hzero]; nofun
  have hindex : ¬ (0 < Blk.length ∧ Blk.length ≤ h0.toNat) := by omega
  rw [blockDec_header, sumRuns_eq_length, ← hn, if_neg hx, if_neg heven, if_neg (Nat.not_lt.2 hlen), if_neg hzero',
    if_neg (Nat.not_lt.2 hM), if_neg hindex, hblk, Option.getD_some]

end

/-! block_dec of a frame of block_enc (R186) -/

/-- A length or index up to SENTINEL fits a header field. -/
theorem u32_toNat_of_le_sentinel {n : Nat} (h : n ≤ sentinel) : (u32 n).toNat = n := u32_toNat (Nat.lt_succ_of_le h)

/-- A block's primary index fits a header field and is never SENTINEL (R181). -/
theorem bwtFwd_primary_lt_sentinel {Blk : List Byte} (h0 : Blk ≠ []) (hn : Blk.length ≤ sentinel) :
    (u32 (bwtFwd Blk).2).toNat = (bwtFwd Blk).2 ∧ (bwtFwd Blk).2 ≠ sentinel := by
  obtain ⟨hp, -⟩ := bwtFwd_primary h0
  exact ⟨u32_toNat_of_le_sentinel (hp.le.trans hn), (hp.trans_le hn).ne⟩

/-- A RAW frame holds its block. -/
theorem blockDec_rawFrame {maxBlock : Nat} {Blk : List Byte} (hn : Blk.length ≤ sentinel) (v : Nat)
    (rest : List Byte) :
    blockDec maxBlock ((encodeRaw Blk v).frame ++ rest) 0
      = .ok (Blk, (encodeRaw Blk v).frame.length, (encodeRaw Blk v).info) := by
  have hlen : (u32 Blk.length).toNat = Blk.length := u32_toNat_of_le_sentinel hn
  have h := blockDec_raw (maxBlock := maxBlock) (h1 := u32 Blk.length) (rest := Blk ++ rest)
    (u32_toNat_of_le_sentinel le_rfl) (by rw [hlen, List.length_append]; omega)
  rw [hlen, List.take_left] at h
  rw [encodeRaw, rawFrame_length, Nat.add_comm, rawFrame, List.append_assoc]
  exact h

/-- An XFORM frame whose payload validates gives its block. -/
theorem blockDec_xformFrame {maxBlock : Nat} {Blk payload : List Byte} (hn : Blk.length ≤ sentinel)
    (hM : Blk.length ≤ maxBlock) (hs : payload.length < Blk.length)
    (hv : validates payload (bwtFwd Blk).2 Blk = true) (rest : List Byte) :
    blockDec maxBlock ((encodeXform Blk payload (bwtFwd Blk).2).frame ++ rest) 0
      = .ok (Blk, (encodeXform Blk payload (bwtFwd Blk).2).frame.length,
          (encodeXform Blk payload (bwtFwd Blk).2).info) := by
  have hblk : Blk ≠ [] := List.ne_nil_of_length_pos (Nat.zero_lt_of_lt hs)
  obtain ⟨hp, hx⟩ := bwtFwd_primary_lt_sentinel hblk hn
  have hlen : (u32 payload.length).toNat = payload.length := u32_toNat_of_le_sentinel (hs.le.trans hn)
  have h := blockDec_xform (maxBlock := maxBlock) (h0 := u32 (bwtFwd Blk).2) (h1 := u32 payload.length)
    (rest := payload ++ rest) (Blk := Blk) (by rwa [hp]) (by rw [hlen, List.length_append]; omega)
    (by rwa [hlen, List.take_left, hp]) hM
  rw [hlen, hp] at h
  rw [encodeXform, xformFrame_length, Nat.add_comm, xformFrame, List.append_assoc]
  exact h

/-- Round trip of one block: a RAW frame holds its block; an emitted candidate validates, by the check of
self-validation or, with injection off, by the unit laws (R186). -/
theorem blockDec_blockEnc {maxBlock m : Nat} {Blk : List Byte} {sv : Bool} {dbg : Word} (hM : Blk.length ≤ maxBlock)
    (hmax : maxBlock ≤ sentinel) (hm : 1 ≤ m) (h255 : m ≤ 255) (hsafe : sv = true ∨ InjectionOff dbg)
    (rest : List Byte) :
    blockDec maxBlock ((blockEnc Blk m sv dbg).frame ++ rest) 0
      = .ok (Blk, (blockEnc Blk m sv dbg).frame.length, (blockEnc Blk m sv dbg).info) := by
  have hn : Blk.length ≤ sentinel := hM.trans hmax
  by_cases hacc : CandidateAccepted Blk m sv dbg
  · have hvalid := hsafe.elim hacc.2 fun hoff => validates_of_injectionOff hoff hm h255 Blk
    rw [blockEnc_of_accepted hacc]
    exact blockDec_xformFrame hn hM hacc.1 hvalid rest
  · rw [blockEnc_of_rejected hacc]
    exact blockDec_rawFrame hn _ rest

/-! The obligations -/

/-- Settles O56: the round trip of one block, for every block, cap and injection that self-validation or DBG admits. -/
theorem blockRoundTrip : Obligations.BlockRoundTrip :=
  fun _ _ rest _ _ _ hM hmax hm h255 hsafe => blockDec_blockEnc hM hmax hm h255 hsafe rest

/-- Settles O55: the two outcomes of block_enc, each clause read off the frame; the greedy encoder is the FSM. -/
theorem passthroughBoundsTheFrame : Obligations.PassthroughBoundsTheFrame := by
  intro Blk m sv dbg e p M pairs payload valid
  have hpayload : candidatePayload (bwtFwd Blk).1 m dbg = payload := by
    rw [candidatePayload, candidateIndices, injectMtf_eq, injectRle_eq, rleEnc_eq_rleGreedy]
  have hacc : CandidateAccepted Blk m sv dbg ↔ payload.length < Blk.length ∧ (sv = true → valid) := by
    rw [CandidateAccepted, hpayload, validates_iff]
  have hle : e.frame.length ≤ Blk.length + 8 := blockEnc_frame_length_le Blk m sv dbg
  by_cases h : payload.length < Blk.length ∧ (sv = true → valid)
  · have he : e = encodeXform Blk payload p := hpayload ▸ blockEnc_of_accepted (hacc.2 h)
    obtain ⟨hsize, hvalid⟩ := h
    rw [he] at hle ⊢
    exact ⟨fun _ => rfl, fun hrej => absurd ⟨hsize, hvalid⟩ hrej, .inl rfl,
      ⟨nofun, fun ⟨_, hsv, hbad⟩ => absurd (hvalid hsv) hbad⟩, hle, fun _ => ⟨hsize, xformFrame_length p payload, rfl⟩,
      nofun, fun hnil => absurd hsize (by rw [hnil]; exact Nat.not_lt_zero _)⟩
  · have he : e = encodeRaw Blk (if payload.length < Blk.length then 1 else 0) :=
      hpayload ▸ blockEnc_of_rejected (mt hacc.1 h)
    have hshort : (if payload.length < Blk.length then 1 else 0) = 1 ↔ payload.length < Blk.length := by simp
    rw [he] at hle ⊢
    exact ⟨fun hok => absurd hok h, fun _ => ⟨rfl, rfl⟩, (ite_eq_or_eq _ 1 0).symm,
      hshort.trans ⟨fun hsize => ⟨hsize, Classical.not_imp.1 fun hv => h ⟨hsize, hv⟩⟩, And.left⟩,
      hle, nofun, fun _ => rfl, by rintro rfl; rfl⟩

end Sys2Proof.Machine
end

section
/-! PROOFS. Containers cut at or inside a frame (R201, R202, R205–R207, R209): a frame cut short is refused as truncated; the
block partition goes block by block, so a source that ends at a block boundary is partitioned apart from what follows it; and
`inverse` of the frames of whole blocks gives the blocks back, from where the round lemmas of `inverse` go on. -/

namespace Sys2Proof.Machine

open Sys2Proof.Safety

/-! A frame cut short (R187, R209) -/

/-- A RAW frame or an XFORM frame of even length, cut anywhere, is refused as truncated. -/
theorem blockDec_take_of_lt {maxBlock : Nat} {h0 h1 : Word} {payload : List Byte} {k : Nat}
    (hh : h0.toNat = sentinel ∨ h1.toNat % 2 = 0) (hlen : payload.length = h1.toNat) (hk : k < payload.length + 8) :
    blockDec maxBlock ((be32 h0 ++ be32 h1 ++ payload).take k) 0 = .error .truncatedContainer := by
  rcases Nat.lt_or_ge k 8 with h8 | h8
  · exact blockDec_of_short ((List.length_take_le _ _).trans_lt h8)
  · obtain ⟨j, rfl⟩ := Nat.exists_eq_add_of_le h8
    have htake : (be32 h0 ++ be32 h1 ++ payload).take (8 + j) = be32 h0 ++ be32 h1 ++ payload.take j :=
      List.take_length_add_append (l₁ := be32 h0 ++ be32 h1) j
    rw [htake]
    exact blockDec_cut_payload hh (by rw [List.length_take]; omega)

/-- Cut anywhere, the frame of a block is refused as truncated. -/
theorem blockDec_take_blockEnc {maxBlock : Nat} {Blk : List Byte} {m : Nat} {sv : Bool} {dbg : Word} {k : Nat}
    (hn : Blk.length ≤ sentinel) (hk : k < (blockEnc Blk m sv dbg).frame.length) :
    blockDec maxBlock ((blockEnc Blk m sv dbg).frame.take k) 0 = .error .truncatedContainer := by
  by_cases hacc : CandidateAccepted Blk m sv dbg
  · have hlen := u32_toNat_of_le_sentinel (hacc.1.le.trans hn)
    rw [blockEnc_of_accepted hacc, encodeXform] at hk ⊢
    rw [xformFrame_length] at hk
    exact blockDec_take_of_lt (.inr (by rw [hlen, candidatePayload_length_even])) hlen.symm hk
  · rw [blockEnc_of_rejected hacc, encodeRaw] at hk ⊢
    rw [rawFrame_length] at hk
    exact blockDec_take_of_lt (.inl (u32_toNat_of_le_sentinel le_rfl)) (u32_toNat_of_le_sentinel hn).symm hk

/-! The block partition, block by block (R201) -/

@[simp] theorem partitionBlocks_nil (w : Bool) (bs : Nat) : partitionBlocks [] w bs = [] := rfl

theorem partitionBlocks_whole {S : List Byte} (h : S ≠ []) (bs : Nat) : partitionBlocks S true bs = [S] :=
  if_neg (mt List.length_eq_zero_iff.1 h)

section
variable {bs : Nat} (hbs : 1 ≤ bs)
include hbs

theorem partitionBlocks_fixed (S : List Byte) : partitionBlocks S false bs
    = (List.range ((S.length + bs - 1) / bs)).map (fun k => (S.drop (k * bs)).take bs) := by
  cases S with
  | nil => rw [List.length_nil, Nat.zero_add, Nat.div_eq_of_lt (by omega)]; rfl
  | cons b S => rfl

/-- In fixed mode the first block is the first bytes of the source, and the rest is partitioned in the same way. -/
theorem partitionBlocks_fixed_cons {S : List Byte} (h : S ≠ []) :
    partitionBlocks S false bs = S.take bs :: partitionBlocks (S.drop bs) false bs := by
  have hpos : 0 < S.length := List.length_pos_of_ne_nil h
  have hcount : (S.length + bs - 1) / bs = ((S.drop bs).length + bs - 1) / bs + 1 := by
    have hmore : (S.length - bs + bs - 1) / bs = (S.length - 1) / bs := by
      rcases Nat.lt_or_ge S.length bs with hlt | hge
      · rw [Nat.div_eq_of_lt (by omega), Nat.div_eq_of_lt (by omega)]
      · rw [Nat.sub_add_cancel hge]
    rw [List.length_drop, hmore, Nat.sub_add_comm hpos, Nat.add_div_right _ hbs]
  rw [partitionBlocks_fixed hbs S, partitionBlocks_fixed hbs (S.drop bs), hcount, List.range_succ_eq_map, List.map_cons,
    List.map_map, Nat.zero_mul, List.drop_zero]
  refine congrArg _ (List.map_congr_left fun k _ => ?_)
  rw [Function.comp_apply, List.drop_drop, Nat.succ_mul, Nat.add_comm]

/-- Induction over the blocks of fixed mode. -/
theorem fixedBlocks_induction {P : List Byte → Prop} (nil : P []) (block : ∀ S, S ≠ [] → P (S.drop bs) → P S)
    (S : List Byte) : P S := by
  induction hn : S.length using Nat.strong_induction_on generalizing S with
  | _ n ih =>
    rcases eq_or_ne S [] with rfl | hS
    · exact nil
    · have hpos : 0 < S.length := List.length_pos_of_ne_nil hS
      exact block S hS (ih _ (by rw [List.length_drop]; omega) _ rfl)

theorem partitionBlocks_fixed_append {S1 : List Byte} (S2 : List Byte) (h : S1.length % bs = 0) :
    partitionBlocks (S1 ++ S2) false bs = partitionBlocks S1 false bs ++ partitionBlocks S2 false bs := by
  induction S1 using fixedBlocks_induction hbs with
  | nil => rfl
  | block S1 hS ih =>
    have hle : bs ≤ S1.length := Nat.le_of_dvd (List.length_pos_of_ne_nil hS) (Nat.dvd_of_mod_eq_zero h)
    have hrest : (S1.drop bs).length % bs = 0 := by rw [List.length_drop, ← Nat.mod_eq_sub_mod hle, h]
    rw [partitionBlocks_fixed_cons hbs (List.append_ne_nil_of_left_ne_nil hS S2), partitionBlocks_fixed_cons hbs hS,
      List.take_append_of_le_length hle, List.drop_append_of_le_length hle, ih hrest, List.cons_append]

end

section
variable {w : Bool} {bs : Nat} (hbs : w = false → 1 ≤ bs)
include hbs

/-- The blocks joined are the source (R201). -/
theorem partitionBlocks_flatten (S : List Byte) : (partitionBlocks S w bs).flatten = S := by
  cases w with
  | false =>
    induction S using fixedBlocks_induction (hbs rfl) with
    | nil => rfl
    | block S hS ih => rw [partitionBlocks_fixed_cons (hbs rfl) hS, List.flatten_cons, ih, List.take_append_drop]
  | true =>
    rcases eq_or_ne S [] with rfl | hS
    · rfl
    · rw [partitionBlocks_whole hS, List.flatten_singleton]

theorem partitionBlocks_eq_cons {S : List Byte} (hS : S ≠ []) :
    ∃ more, partitionBlocks S w bs = (if w then S else S.take bs) :: more := by
  cases w with
  | false => exact ⟨_, partitionBlocks_fixed_cons (hbs rfl) hS⟩
  | true => exact ⟨[], partitionBlocks_whole hS bs⟩

/-- A source that ends at a block boundary is partitioned apart from what follows it. -/
theorem partitionBlocks_append {S1 S2 : List Byte}
    (h : w = false ∧ S1.length % bs = 0 ∨ w = true ∧ (S1 = [] ∨ S2 = [])) :
    partitionBlocks (S1 ++ S2) w bs = partitionBlocks S1 w bs ++ partitionBlocks S2 w bs := by
  obtain ⟨rfl, hmod⟩ | ⟨-, rfl | rfl⟩ := h
  · exact partitionBlocks_fixed_append (hbs rfl) S2 hmod
  · rfl
  · rw [partitionBlocks_nil, List.append_nil, List.append_nil]

end

/-! What holds of a TRANSFORM that passes the issue checks (R102) -/

theorem transform_of_issueCheck {P : Params} {c : Latched} (h : issueCheck P .transform c = none) :
    (1 ≤ c.maxRun.toNat ∧ c.maxRun.toNat ≤ 255)
    ∧ (c.wholeFile = false → 1 ≤ c.blockSize.toNat ∧ c.blockSize.toNat ≤ P.maxBlock)
    ∧ (c.wholeFile = true → c.srcLen.toNat ≤ P.maxBlock) := by
  unfold issueCheck at h
  split_ifs at h with hregion hrun hsize hlen
  refine ⟨?_, fun hw => ?_, fun hw => ?_⟩
  · simpa [checksMaxRun, Nat.one_le_iff_ne_zero] using hrun
  · simpa [checksBlockSize, hw, BitVec.toNat_eq, Nat.one_le_iff_ne_zero] using hsize
  · simpa [checksSrcLen, hw] using hlen

/-- Every block of an admitted source is at most MAX_BLOCK bytes (R102, R201). -/
theorem partitionBlocks_le_maxBlock {P : Params} {c : Latched} (h : issueCheck P .transform c = none) {S : List Byte}
    (hS : S.length ≤ c.srcLen.toNat) :
    ∀ Blk ∈ partitionBlocks S c.wholeFile c.blockSize.toNat, Blk.length ≤ P.maxBlock := by
  obtain ⟨-, hfixed, hwhole⟩ := transform_of_issueCheck h
  intro Blk hB
  cases hw : c.wholeFile with
  | false =>
    obtain ⟨hbs, hM⟩ := hfixed hw
    rw [hw, partitionBlocks_fixed hbs] at hB
    obtain ⟨k, -, rfl⟩ := List.mem_map.1 hB
    exact (List.length_take_le _ _).trans hM
  | true => exact (((partitionBlocks_bounds _ _ _).2 Blk hB).trans hS).trans (hwhole hw)

/-! The container of a source (R202, R204) -/

theorem transform_out (S : List Byte) (c : Latched) :
    (transform S c).out = (partitionBlocks S c.wholeFile c.blockSize.toNat).flatMap
      (fun Blk => (blockEnc Blk c.maxRun.toNat c.selfValidate c.dbg).frame) := by
  rw [transform_eq_ofFrames, TransformAcc.ofFrames, List.flatMap_map]

/-! `inverse` of the frames of whole blocks (R205, R210) -/

/-- The running values of `inverse` that match those of `transform`, with `out` the blocks so far joined. -/
def InverseAcc.ofTransform (t : TransformAcc) (out : List Byte) : InverseAcc where
  pos := t.out.length
  out := out
  blocks := t.blocks
  xblocks := t.xblocks
  last := t.last

/-- One round of `transform` and one of `inverse` keep them matched. -/
theorem ofTransform_transformBlock (m : Nat) (sv : Bool) (dbg : Word) (t : TransformAcc) (out Blk : List Byte) :
    (InverseAcc.ofTransform t out).append Blk (blockEnc Blk m sv dbg).frame.length (blockEnc Blk m sv dbg).info
      = .ofTransform (transformBlock m sv dbg t Blk) (out ++ Blk) := by
  simp [InverseAcc.ofTransform, InverseAcc.append, transformBlock]

/-- `inverse` of the frames of blocks that fit gives the blocks back, with the counts and report of `transform`. -/
theorem inverse_foldl_transformBlock {maxBlock cap m : Nat} {sv : Bool} {dbg : Word} (hmax : maxBlock ≤ sentinel)
    (hm : 1 ≤ m) (h255 : m ≤ 255) (hsafe : sv = true ∨ InjectionOff dbg) (blocks : List (List Byte))
    (hblocks : ∀ Blk ∈ blocks, Blk.length ≤ maxBlock) (hcap : blocks.flatten.length ≤ cap) :
    inverse maxBlock (blocks.foldl (transformBlock m sv dbg) {}).out cap
      = .done (.ofTransform (blocks.foldl (transformBlock m sv dbg) {}) blocks.flatten) := by
  induction blocks using List.reverseRecOn with
  | nil => rfl
  | append_singleton blocks Blk ih =>
    rw [List.flatten_append, List.flatten_singleton] at hcap ⊢
    rw [List.length_append] at hcap
    have hd := blockDec_blockEnc (hblocks Blk (by simp)) hmax hm h255 hsafe []
    rw [List.append_nil] at hd
    have hdone := inverse_append_frame (ih (fun B hB => hblocks B (List.mem_append_left _ hB)) (by omega)) hd hcap
    rw [List.take_length] at hdone
    rw [List.foldl_append, List.foldl_cons, List.foldl_nil, ← ofTransform_transformBlock]
    exact hdone

/-! The obligation -/

/-- Settles O60: `inverse` of the frames of S1 gives S1, and goes on with what is left of the next frame. -/
theorem truncationIsFoundInsideAFrame : Obligations.TruncationIsFoundInsideAFrame := by
  refine ⟨fun P c S1 S2 cap hc hsplit hsrc hcap hsafe => ?_, fun maxBlock Blk m sv dbg k hn hk =>
    blockDec_take_blockEnc hn hk⟩
  intro container first next frame
  rw [List.length_append] at hsrc
  obtain ⟨⟨hm, h255⟩, hfixed, -⟩ := transform_of_issueCheck hc
  have hbs : c.wholeFile = false → 1 ≤ c.blockSize.toNat := fun hw => (hfixed hw).1
  have hmax : P.maxBlock ≤ sentinel := Nat.le_of_lt_succ (params_maxBlock_lt P)
  have hflat : (partitionBlocks S1 c.wholeFile c.blockSize.toNat).flatten = S1 := partitionBlocks_flatten hbs S1
  have ha : inverse P.maxBlock first.out cap = .done (.ofTransform first S1) := by
    have h := inverse_foldl_transformBlock (cap := cap) hmax hm h255 hsafe _
      (partitionBlocks_le_maxBlock hc (S := S1) (by omega)) (by rwa [hflat])
    rwa [hflat] at h
  have hjoin : container = first.out ++ (transform S2 c).out := by
    rw [transform_out S2, transform_out S1, ← List.flatMap_append, ← partitionBlocks_append hbs hsplit, ← transform_out]
  have hnext : S2 ≠ [] → next.length ≤ P.maxBlock ∧ ∃ tail, (transform S2 c).out = frame ++ tail := fun hS2 => by
    obtain ⟨more, hmore⟩ := partitionBlocks_eq_cons hbs hS2
    exact ⟨partitionBlocks_le_maxBlock hc (S := S2) (by omega) next (by rw [hmore]; exact List.mem_cons_self),
      _, by rw [transform_out, hmore, List.flatMap_cons]⟩
  refine ⟨.ofTransform first S1, rfl, rfl, rfl, rfl, rfl, ?_, fun hS2 k hk hlt => ?_, fun hS2 hroom => ?_⟩
  · rwa [hjoin, List.take_left]
  · obtain ⟨hM, tail, htail⟩ := hnext hS2
    have hcut : frame.take k ≠ [] := List.ne_nil_of_length_pos (by rw [List.length_take]; omega)
    rw [hjoin, htail, List.take_length_add_append, List.take_append_of_le_length hlt.le]
    exact inverse_append_bad ha hcut (blockDec_take_blockEnc (hM.trans hmax) hlt)
  · obtain ⟨hM, tail, htail⟩ := hnext hS2
    rw [hjoin, htail]
    exact inverse_append_tooLarge ha (blockDec_blockEnc hM hmax hm h255 hsafe tail) hroom

end Sys2Proof.Machine
end

section
/-! PROOFS. The driver (R201, R202, R204, R205, R210): INVERSE of what TRANSFORM made gives the source back; the shape of the
block partition; and in fixed mode the container of two sources joined at a block boundary is their containers joined. -/

namespace Sys2Proof.Machine

open Sys2Proof.Safety

/-! The round trip (R210) -/

/-- `inverse` of the container of an admitted source ends normally, with the source as output and every running value that
of `transform`. -/
theorem inverse_transform {P : Params} {c : Latched} {S : List Byte} {cap : Nat}
    (hc : issueCheck P .transform c = none) (hsrc : S.length ≤ c.srcLen.toNat) (hcap : S.length ≤ cap)
    (hsafe : c.selfValidate = true ∨ InjectionOff c.dbg) :
    inverse P.maxBlock (transform S c).out cap = .done (.ofTransform (transform S c) S) := by
  obtain ⟨⟨hm, h255⟩, hfixed, -⟩ := transform_of_issueCheck hc
  have hmax : P.maxBlock ≤ sentinel := Nat.le_of_lt_succ (params_maxBlock_lt P)
  have hflat : (partitionBlocks S c.wholeFile c.blockSize.toNat).flatten = S :=
    partitionBlocks_flatten (fun hw => (hfixed hw).1) S
  have h := inverse_foldl_transformBlock (cap := cap) hmax hm h255 hsafe _ (partitionBlocks_le_maxBlock hc hsrc)
    (by rwa [hflat])
  rwa [hflat] at h

/-- Settles O59: the accumulator of `inverse` ends as the one that matches `transform`, with the source as output. -/
theorem containerRoundTrip : Obligations.ContainerRoundTrip := fun _ _ _ _ hc hsrc hcap hsafe =>
  ⟨_, inverse_transform hc hsrc.le hcap hsafe, rfl, rfl, rfl⟩

/-! The shape of the block partition (R201) -/

section
variable {bs : Nat} (hbs : 1 ≤ bs)
include hbs

theorem partitionBlocks_fixed_ne_nil (S : List Byte) : ∀ Blk ∈ partitionBlocks S false bs, Blk ≠ [] := by
  induction S using fixedBlocks_induction hbs with
  | nil => simp
  | block S hS ih =>
    have hfirst : S.take bs ≠ [] := by simp [List.take_eq_nil_iff, hS, Nat.ne_of_gt hbs]
    rw [partitionBlocks_fixed_cons hbs hS]
    exact List.forall_mem_cons.2 ⟨hfirst, ih⟩

theorem partitionBlocks_fixed_le (S : List Byte) : ∀ Blk ∈ partitionBlocks S false bs, Blk.length ≤ bs := by
  rw [partitionBlocks_fixed hbs]
  exact List.forall_mem_map.2 fun k _ => List.length_take_le _ _

/-- A block with more of the source after it takes all of the block size. -/
theorem partitionBlocks_fixed_dropLast (S : List Byte) :
    ∀ Blk ∈ (partitionBlocks S false bs).dropLast, Blk.length = bs := by
  induction S using fixedBlocks_induction hbs with
  | nil => simp
  | block S hS ih =>
    rw [partitionBlocks_fixed_cons hbs hS]
    rcases eq_or_ne (S.drop bs) [] with hlast | hmore
    · simp [hlast]
    · have hfull : (S.take bs).length = bs := List.length_take_of_le (Nat.le_of_not_le (mt List.drop_eq_nil_of_le hmore))
      have hrest : partitionBlocks (S.drop bs) false bs ≠ [] := by simp [partitionBlocks_fixed_cons hbs hmore]
      rw [List.dropLast_cons_of_ne_nil hrest]
      exact List.forall_mem_cons.2 ⟨hfull, ih⟩

end

theorem partitionBlocks_ne_nil {w : Bool} {bs : Nat} (hbs : w = false → 1 ≤ bs) (S : List Byte) :
    ∀ Blk ∈ partitionBlocks S w bs, Blk ≠ [] := by
  cases w with
  | false => exact partitionBlocks_fixed_ne_nil (hbs rfl) S
  | true =>
    rcases eq_or_ne S [] with rfl | hS
    · simp
    · simpa [partitionBlocks_whole hS] using hS

/-- Settles O57, from the lemmas about each mode of the partition. -/
theorem partitionCoversTheSource : Obligations.PartitionCoversTheSource := by
  intro S w bs h blocks
  have hbs : w = false → 1 ≤ bs := fun hw => h.resolve_left (by simp [hw])
  refine ⟨partitionBlocks_flatten hbs S, partitionBlocks_ne_nil hbs S, ?_, ?_, ?_⟩
  · rintro rfl
    exact partitionBlocks_nil w bs
  · rintro rfl hS
    exact partitionBlocks_whole hS bs
  · rintro rfl
    exact ⟨partitionBlocks_fixed_le (hbs rfl) S, partitionBlocks_fixed_dropLast (hbs rfl) S⟩

/-! The container of joined sources (R202, R204) -/

theorem transform_blocks (S : List Byte) (c : Latched) :
    (transform S c).blocks = (partitionBlocks S c.wholeFile c.blockSize.toNat).length := by
  rw [transform_eq_ofFrames, TransformAcc.ofFrames, List.length_map]

/-- Settles O58: the partition of the joined sources is their partitions joined, and a container is the frames of its
blocks in order. -/
theorem transformOfJoinedSources : Obligations.TransformOfJoinedSources := by
  intro S1 S2 c hfixed hbs hmod
  have hjoin := partitionBlocks_append (fun _ => hbs) (S2 := S2) (.inl ⟨hfixed, hmod⟩)
  constructor
  · simp only [transform_out, hjoin, List.flatMap_append]
  · simp only [transform_blocks, hjoin, List.length_append]

end Sys2Proof.Machine
end

section
/-! PROOFS. The checks of block_dec in their order (R187, R225): one lemma per check, with the checks before it passed. An
XFORM frame that passes them all has a payload that decodes, so it is the frame of a candidate that validates. -/

namespace Sys2Proof.Machine

/-! The zero-run check (R169) -/

/-- A payload with a pair whose run_length is 0. -/
def HasZeroRun (X : List Byte) : Prop := ∃ j, 2 * j + 1 < X.length ∧ X.getD (2 * j + 1) 0 = 0

theorem forall_run_ne_zero {X : List Byte} (h : ¬ HasZeroRun X) (j : Nat) (hj : 2 * j + 1 < X.length) :
    X.getD (2 * j + 1) 0 ≠ 0 :=
  fun hzero => h ⟨j, hj, hzero⟩

/-- The scan for a zero run finds one exactly when there is one. -/
theorem firstZeroRun_isSome_iff {X : List Byte} {off : Nat} : (firstZeroRun off X).isSome = true ↔ HasZeroRun X := by
  classical
  constructor
  · intro hsome
    by_contra h
    rw [firstZeroRun_none X off (forall_run_ne_zero h)] at hsome
    cases hsome
  · intro h
    obtain ⟨hj, hzero⟩ := Nat.find_spec h
    have hlow : ∀ k, k < Nat.find h → X.getD (2 * k + 1) 0 ≠ 0 := fun k hk hz => Nat.find_min h hk ⟨by omega, hz⟩
    rw [firstZeroRun_some X off (Nat.find h) hj hzero hlow, Option.isSome_some]

/-! The checks of an XFORM frame (R187) -/

/-- The first header word of a RAW frame. -/
theorem toNat_eq_sentinel_iff {h0 : Word} : h0.toNat = sentinel ↔ h0 = 0xFFFFFFFF#32 :=
  BitVec.toNat_inj (y := 0xFFFFFFFF#32)

section
variable {maxBlock : Nat} {h0 h1 : Word} {rest : List Byte} (hx : h0.toNat ≠ sentinel)
include hx

theorem blockDec_odd (hodd : h1.toNat % 2 = 1) :
    blockDec maxBlock (be32 h0 ++ be32 h1 ++ rest) 0 = .error .corruptPayload := by
  rw [blockDec_header, if_neg hx, if_pos hodd]

variable (heven : h1.toNat % 2 = 0) (hlen : h1.toNat ≤ rest.length)
include heven hlen

theorem blockDec_zeroRun (hz : HasZeroRun (rest.take h1.toNat)) :
    blockDec maxBlock (be32 h0 ++ be32 h1 ++ rest) 0 = .error .corruptPayload := by
  rw [blockDec_header, if_neg hx, if_neg (by omega), if_neg (Nat.not_lt.2 hlen), if_pos (firstZeroRun_isSome_iff.2 hz)]

variable (hz : ¬ HasZeroRun (rest.take h1.toNat))
include hz

theorem blockDec_tooLarge (hM : maxBlock < sumRuns (rest.take h1.toNat)) :
    blockDec maxBlock (be32 h0 ++ be32 h1 ++ rest) 0 = .error .blockTooLarge := by
  rw [blockDec_header, if_neg hx, if_neg (by omega), if_neg (Nat.not_lt.2 hlen),
    if_neg (mt firstZeroRun_isSome_iff.1 hz), if_pos hM]

variable (hM : sumRuns (rest.take h1.toNat) ≤ maxBlock)
include hM

theorem blockDec_badIndex (hpos : 0 < sumRuns (rest.take h1.toNat)) (hp : sumRuns (rest.take h1.toNat) ≤ h0.toNat) :
    blockDec maxBlock (be32 h0 ++ be32 h1 ++ rest) 0 = .error .corruptPrimaryIndex := by
  rw [blockDec_header, if_neg hx, if_neg (by omega), if_neg (Nat.not_lt.2 hlen),
    if_neg (mt firstZeroRun_isSome_iff.1 hz), if_neg (Nat.not_lt.2 hM), if_pos ⟨hpos, hp⟩]

/-- A frame that passes every check decodes to the inverse of the three coders. -/
theorem blockDec_passes (hp : sumRuns (rest.take h1.toNat) = 0 ∨ h0.toNat < sumRuns (rest.take h1.toNat)) :
    ∃ Blk, bwtInv (mtfDec (expandPairs (rest.take h1.toNat))) h0.toNat = some Blk
      ∧ Blk.length = sumRuns (rest.take h1.toNat)
      ∧ blockDec maxBlock (be32 h0 ++ be32 h1 ++ rest) 0 = .ok (Blk, 8 + h1.toNat,
        { xform := true, rawLen := sumRuns (rest.take h1.toNat), payloadLen := h1.toNat, header0 := h0.toNat }) := by
  have hsum : (mtfDec (expandPairs (rest.take h1.toNat))).length = sumRuns (rest.take h1.toNat) := by
    rw [mtfDec_length, sumRuns_eq_length]
  rw [← hsum] at hp hM ⊢
  obtain ⟨Blk, hblk, hn⟩ := bwtInv_of_index hp
  have hrle := rleDec_of_noZeroRun (by rwa [List.length_take_of_le hlen]) (forall_run_ne_zero hz)
  refine ⟨Blk, hblk, hn, ?_⟩
  rw [← hn] at hM ⊢
  exact blockDec_xform hx hlen (validates_iff.2 ⟨_, hrle, hblk⟩) hM

end

/-! The obligation -/

/-- Settles O54: one lemma per check of block_dec, in the order of R187. -/
theorem frameChecksComeInOrder : Obligations.FrameChecksComeInOrder := by
  refine ⟨fun _ _ => blockDec_of_short, fun maxBlock h0 h1 rest => ⟨fun hraw => ?_, fun hx => ?_⟩⟩
  · have hraw := toNat_eq_sentinel_iff.2 hraw
    exact ⟨blockDec_cut_payload (.inl hraw), blockDec_raw hraw⟩
  · have hx := mt toNat_eq_sentinel_iff.1 hx
    exact ⟨blockDec_odd hx, fun heven => blockDec_cut_payload (.inr heven), fun heven hlen =>
      ⟨blockDec_zeroRun hx heven hlen, blockDec_tooLarge hx heven hlen, blockDec_badIndex hx heven hlen,
        blockDec_passes hx heven hlen⟩⟩

end Sys2Proof.Machine
end

section
/-! PROOFS. Both resets are `resetDevice`, but for the RST level; with a command in flight the destination window of that
command is all that `resetDevice` writes in data memory (R250–R252). -/

namespace Sys2Proof.Safety

open Sys2Proof.Machine

/-! The two resets -/

/-- A CTRL write with bit 9 set and an assertion of RST differ in the RST level only. -/
theorem eq_resetDevice_of_reset {P : Params} {v : Word} {s t : State} (h9 : ctrlSoftReset v = true)
    (h : writeReg P .ctrl v s = .next t ∨ runMove .rstAssert s = .next t) :
    ∃ b, t = { resetDevice s with rst := b } := by
  rcases h with hsoft | hrst
  · have ht : ctrlWrite P v s = t := Host.Outcome.next.inj hsoft
    exact ⟨(resetDevice s).rst, by rw [← ht, ctrlWrite_reset h9]⟩
  · exact ⟨true, (Host.Outcome.next.inj hrst).symm⟩

/-! What a reset does to data memory when it removes a command (R251) -/

section
variable {s : State} {f : InFlight} (hf : s.inFlight = some f)
include hf

theorem resetDevice_mem_of_flying :
    (resetDevice s).mem = fillFree s.mem f.cfg.dstAddr.toNat f.cfg.dstCap.toNat s.draws := by
  simp [resetDevice, hf]

theorem resetDevice_sameOutsideDest : SameOutsideDest f.cfg s (resetDevice s) := by
  intro a ha
  rw [resetDevice_mem_of_flying hf, readByte_fillFree_outside (inDest_eq_false.1 ha)]

theorem readByte_resetDevice_inDest (hm : Memory.wf s.mem) (k : Nat) (hk : k < f.cfg.dstCap.toNat) :
    readByte (resetDevice s).mem (f.cfg.dstAddr.toNat + k) = Config.freeByte (s.draws + k) := by
  rw [resetDevice_mem_of_flying hf, readByte_fillFree_inside hm _ _ _ k hk]

end

/-- Settles O36: both resets are `resetDevice`, whose memory is known with nothing and with a command in flight. -/
theorem resetForcesTheResetState : Obligations.ResetForcesTheResetState := by
  intro s v h9 P t h
  obtain ⟨b, rfl⟩ := eq_resetDevice_of_reset h9 h
  have hdone : statusDone Regs.reset.status = false := by decide
  have hirq : Regs.reset.irq = false := by decide
  exact ⟨rfl, rfl, hirq, hdone, resetDevice_mem_of_idle, fun f hf =>
    ⟨resetDevice_sameOutsideDest hf, readByte_resetDevice_inDest hf⟩⟩

end Sys2Proof.Safety
end
